-- ==== Sys2Proof/Word.lean ====
section
/-! DEFINITION. The word types of RGBE-CODEC: registers and `IMG` cells are 32 bits wide, `PLN` and `STR` cells 8 bits
(rules R10, R20 to R23, R27). -/

namespace Sys2Proof

/-- A 32-bit register, command word or `IMG` cell (R4 "register width", R21, R27). -/
abbrev Word := BitVec 32

/-- A cell of `PLN` or `STR`, a mantissa byte or an exponent byte (R5: "A *byte* is 8 bits, value 0..255"). -/
abbrev Byte := BitVec 8

/-- One memory space as plain data: (address, cell) pairs, addresses strictly rising; an address that is not listed has
been written by nothing since the hard reset (R31, R184). The operations over it are in Machine/Ops.lean. -/
abbrev Memory (w : Nat) := List (Nat × BitVec w)

end Sys2Proof
end

