-- ==== Sys2Proof/Syntax.lean ====
section
/-! DEFINITION. The syntax: one constructor per row of spec/opcode_table.json, 19 commands and 7 stream tokens. -/

namespace Sys2Proof

/-- Every row of spec/opcode_table.json. The first 19 are the command words of R61; the last 7 are the table's rows of
kind "stream token, not a command", the units the scanline decoder reads (R65 to R67, R72). -/
inductive Instr where
  | nop                          -- R151
  | f2rgbe                       -- R87
  | rgbe2f                       -- R91
  | f2re                         -- R92
  | re2f                         -- R93
  | plnClr                       -- R111
  | insRgbe                      -- R112
  | insRe                        -- R113
  | img2pln                      -- R114
  | pln2img                      -- R115
  | hdrWr                        -- R101
  | hdrRd                        -- R103
  | rleEnc (k : BitVec 2)        -- R122; `k` is the plane index `word[1:0]` (R62)
  | encScan                      -- R127
  | encImage                     -- R128
  | rleDec (k : BitVec 2)        -- R137
  | decScan                      -- R141
  | decImage                     -- R142
  | srst                         -- R152
  | rleZero                      -- R72 (a): control byte 0
  | rleDump (n : BitVec 7)       -- R66: control byte 1..127
  | rleDump128                   -- R66: control byte 128
  | rleRepeat1                   -- R66: control byte 129
  | rleRepeat (n : BitVec 7)     -- R66: control byte 130..255
  | scanMarker (h l : Byte)      -- R67: 2, 2, h, l
  | rgbeQuad (r g b e : Byte)    -- R65
  deriving DecidableEq, Repr

/-- Where an encoding stands: the `CMD` port (R60), the control-byte position of an RLE run (R66), the first four bytes
of a scanline (R67, R139), or a pixel of a flat scanline (R69). The four bytes of the last two are one number, the
first byte in bits 31:24, as the opcode table's rows number them. -/
inductive Code where
  | command (w : Word)
  | control (c : Byte)
  | head (w : Word)
  | pixel (w : Word)
  deriving DecidableEq, Repr

end Sys2Proof
end

