-- ==== Sys2Proof/WellFormed.lean ====
section
/-! DEFINITION. Which terms of `Instr` are rows of the opcode table. -/

namespace Sys2Proof

/-- The checks of R66: an RLE_DUMP control byte has `n != 0` (0 is RLE_ZERO) and an RLE_REPEAT control byte has `n >= 2`
(128 is RLE_DUMP128 and 129 is RLE_REPEAT1). Every other field takes all its values. -/
def Instr.wellFormed : Instr → Bool
  | .rleDump n => n != 0#7
  | .rleRepeat n => decide (2 ≤ n.toNat)
  | .nop | .f2rgbe | .rgbe2f | .f2re | .re2f | .plnClr | .insRgbe | .insRe | .img2pln | .pln2img | .hdrWr | .hdrRd
  | .rleEnc _ | .encScan | .encImage | .rleDec _ | .decScan | .decImage | .srst
  | .rleZero | .rleDump128 | .rleRepeat1 | .scanMarker _ _ | .rgbeQuad _ _ _ _ => true

end Sys2Proof
end

