-- ==== Sys2Proof/Decode.lean ====
section
/-! DEFINITION. Decoding command words (R60 to R64) and stream units (R65 to R67), total, rejecting by name; the encoder;
and the opcode table's own numbering. -/

namespace Sys2Proof

/-- Why a command word is illegal (R63). A stream unit is never rejected: RLE_ZERO is itself a row. -/
inductive Reject where
  | unassignedOpcode     -- `op` is not in R61
  | zeroFieldNotZero     -- a field marked zero is not all zero
  deriving DecidableEq, Repr

/-- `op = word[31:24]` (R60). -/
def commandOp (w : Word) : Byte := w.extractLsb' 24 8

/-- `k = word[1:0]`, zero-extended, never scaled (R62). -/
def commandPlane (w : Word) : BitVec 2 := w.extractLsb' 0 2

/-- Format Z (R60): bits 23:0 must be 0. -/
def decodeZ (w : Word) (i : Instr) : Except Reject Instr :=
  if w.extractLsb' 0 24 = 0#24 then .ok i else .error .zeroFieldNotZero

/-- Format K (R60): bits 23:2 must be 0, bits 1:0 are the plane index. -/
def decodeK (w : Word) (i : BitVec 2 → Instr) : Except Reject Instr :=
  if w.extractLsb' 2 22 = 0#22 then .ok (i (commandPlane w)) else .error .zeroFieldNotZero

/-- The opcode map of R61. -/
def decodeCommand (w : Word) : Except Reject Instr :=
  match (commandOp w).toNat with
  | 0x00 => decodeZ w .nop
  | 0x01 => decodeZ w .f2rgbe
  | 0x02 => decodeZ w .rgbe2f
  | 0x03 => decodeZ w .f2re
  | 0x04 => decodeZ w .re2f
  | 0x10 => decodeZ w .plnClr
  | 0x11 => decodeZ w .insRgbe
  | 0x12 => decodeZ w .insRe
  | 0x13 => decodeZ w .img2pln
  | 0x14 => decodeZ w .pln2img
  | 0x20 => decodeZ w .hdrWr
  | 0x21 => decodeZ w .hdrRd
  | 0x30 => decodeK w .rleEnc
  | 0x31 => decodeZ w .encScan
  | 0x32 => decodeZ w .encImage
  | 0x40 => decodeK w .rleDec
  | 0x41 => decodeZ w .decScan
  | 0x42 => decodeZ w .decImage
  | 0xFF => decodeZ w .srst
  | _ => .error .unassignedOpcode

/-- The control byte of an RLE run (R66, R72 (a)): all 256 values. -/
def decodeControl (c : Byte) : Instr :=
  if c = 0#8 then .rleZero
  else if c.toNat < 128 then .rleDump (c.extractLsb' 0 7)
  else if c = 128#8 then .rleDump128
  else if c = 129#8 then .rleRepeat1
  else .rleRepeat (c.extractLsb' 0 7)

/-- Four stream bytes as a quad, the first in bits 31:24 (R65). -/
def decodePixel (w : Word) : Instr :=
  .rgbeQuad (w.extractLsb' 24 8) (w.extractLsb' 16 8) (w.extractLsb' 8 8) (w.extractLsb' 0 8)

/-- The first four bytes of a scanline (R67): `02 02 h l` is a marker candidate; whether `h*256 + l` is the current width
is part of its meaning (R139). Anything else is the first quad of a flat scanline (R75). -/
def decodeHead (w : Word) : Instr :=
  if w.extractLsb' 16 16 = 0x0202#16 then .scanMarker (w.extractLsb' 8 8) (w.extractLsb' 0 8) else decodePixel w

/-- The decoder: total on every code. -/
def decode : Code → Except Reject Instr
  | .command w => decodeCommand w
  | .control c => .ok (decodeControl c)
  | .head w => .ok (decodeHead w)
  | .pixel w => .ok (decodePixel w)

/-- A format Z word (R60): `op` and zeros. -/
def wordZ (op : Byte) : Word := op ++ 0#24

/-- A format K word (R60): `op`, zeros, `k`. -/
def wordK (op : Byte) (k : BitVec 2) : Word := op ++ 0#22 ++ k

/-- The encoder, from R61, R65 to R67 and the opcode table. -/
def encode : Instr → Code
  | .nop => .command (wordZ 0x00#8)
  | .f2rgbe => .command (wordZ 0x01#8)
  | .rgbe2f => .command (wordZ 0x02#8)
  | .f2re => .command (wordZ 0x03#8)
  | .re2f => .command (wordZ 0x04#8)
  | .plnClr => .command (wordZ 0x10#8)
  | .insRgbe => .command (wordZ 0x11#8)
  | .insRe => .command (wordZ 0x12#8)
  | .img2pln => .command (wordZ 0x13#8)
  | .pln2img => .command (wordZ 0x14#8)
  | .hdrWr => .command (wordZ 0x20#8)
  | .hdrRd => .command (wordZ 0x21#8)
  | .rleEnc k => .command (wordK 0x30#8 k)
  | .encScan => .command (wordZ 0x31#8)
  | .encImage => .command (wordZ 0x32#8)
  | .rleDec k => .command (wordK 0x40#8 k)
  | .decScan => .command (wordZ 0x41#8)
  | .decImage => .command (wordZ 0x42#8)
  | .srst => .command (wordZ 0xFF#8)
  | .rleZero => .control 0#8
  | .rleDump n => .control (0#1 ++ n)
  | .rleDump128 => .control 128#8
  | .rleRepeat1 => .control 129#8
  | .rleRepeat n => .control (1#1 ++ n)
  | .scanMarker h l => .head (2#8 ++ 2#8 ++ h ++ l)
  | .rgbeQuad r g b e => .pixel (r ++ g ++ b ++ e)

/-- The command word of an instruction (R61): what `raise` records in `ECMD` (R167). Stream tokens have none. -/
def Instr.word (i : Instr) : Word :=
  match encode i with
  | .command w => w
  | .control _ | .head _ | .pixel _ => 0#32

/-- The instruction the decoder reads from an opcode-table word of `nbits` bits. 8 bits: a control byte. 32 bits: the
table lists command words and four-byte stream units in one number space, which the hardware keeps apart by WHERE the
word stands; a word that is a command is read as the command, every other word as the head of a scanline (log 11). -/
def decodeTableWord (nbits w : Nat) : Option Instr :=
  if nbits = 8 then
    if w < 256 then some (decodeControl (BitVec.ofNat 8 w)) else none
  else if nbits = 32 then
    if w < 4294967296 then
      match decodeCommand (BitVec.ofNat 32 w) with
      | .ok i => some i
      | .error _ => some (decodeHead (BitVec.ofNat 32 w))
    else none
  else none

end Sys2Proof
end

