-- ==== Sys2Proof/Config.lean ====
section
/-! DEFINITION. What an implementation fixes (the parameters of rule R4) and the values the spec leaves open. -/

namespace Sys2Proof

/-- `NEG_MODE` (R4, R85, D12): the mantissa byte of a negative channel. -/
inductive NegMode where
  | clamp0   -- mantissa 0 (the default)
  | wrap8    -- the low 8 bits of the negated truncated magnitude
  deriving DecidableEq, Repr

/-- `OVF_MODE` (R4, R84, D14): the exponent byte when the biased exponent is 256. -/
inductive OvfMode where
  | wrap     -- 256 mod 256 = 0 (the default)
  | sat255   -- every operand is first limited to 0x7EFFFFFF
  deriving DecidableEq, Repr

/-- `NONFINITE` (R4, R82, D13): the treatment of NaN and infinities; the spec gives it one value. -/
inductive NonFinite where
  | canon
  deriving DecidableEq, Repr

/-- The parameters of rule R4 that an implementation chooses. `strBytes` is a natural number of at most 2^32 - 1, which
is what 32 bits hold. -/
structure Config where
  imgWords  : Nat        -- IMG_WORDS, capacity of IMG in words
  plnBytes  : Nat        -- PLN_BYTES, capacity of PLN in bytes
  strBytes  : Word       -- STR_BYTES, capacity of STR in bytes
  negMode   : NegMode
  ovfMode   : OvfMode
  nonFinite : NonFinite
  deriving DecidableEq, Repr

/-- The parameters `State.reset` carries: the default modes of R4 and the capacities the spec's own programs assume
(95_test_vectors.md section 9: "`IMG_WORDS = PLN_BYTES = STR_BYTES = 4096`, default modes").
DESIGN CHOICE (log 1): the capacities are OPEN in R4; no statement rests on this instance. -/
def Config.standard : Config :=
  { imgWords := 4096, plnBytes := 4096, strBytes := 4096#32
    negMode := .clamp0, ovfMode := .wrap, nonFinite := .canon }

/-- FREE VALUE (R31, R184, U9; log 2): what cell `a` of `IMG` holds before anything has written it since hard reset number
`n`. "an arbitrary but fixed initial memory". -/
opaque Config.imgAtPowerOn (n a : Nat) : Word

/-- FREE VALUE (R31, R184, U9; log 2): the same for `PLN`. -/
opaque Config.plnAtPowerOn (n a : Nat) : Byte

/-- FREE VALUE (R31, R184, U9; log 2): the same for `STR`. -/
opaque Config.strAtPowerOn (n a : Nat) : Byte

/-- FREE VALUE (log 9): the mantissa byte of channel `i` when that channel is negative infinity and `NEG_MODE = wrap8`.
R85 gives `(-trunc(|c| * 2^(8-e))) mod 256` and R81 gives infinity no real value `|c|`; R80 makes it a function of the
three (canonicalised) operands. -/
opaque Config.negInfMantissa (i : Nat) (w0 w1 w2 : Word) : Byte

end Sys2Proof
end

