-- ==== Sys2Proof/Machine/State.lean ====
section
/-! DEFINITION. The machine's state (spec/10_state.md), its reset value (R31, R180), and the reasons the model stops. -/

namespace Sys2Proof.Machine

/-- The five fault codes a command can raise (R160). Raising one is a NEXT state of the model (R167), not a stop. -/
inductive FaultCode where
  | malformedHeader   -- 1
  | truncatedData     -- 2
  | ioError           -- 3
  | formatFault       -- 4
  | configFault       -- 5
  deriving DecidableEq, Repr

/-- The three memory spaces (R20). -/
inductive Space where
  | img
  | pln
  | str
  deriving DecidableEq, Repr

/-- One host action (R28, R153, R154, R183): what a program of this block is a list of. `hardReset` is the block's reset
input (R180). A command is `writeReg 0x0E w` (R26). -/
inductive HostAction where
  | writeReg (idx : Nat) (v : Word)
  | readReg (idx : Nat)
  | writeImg (a : Nat) (v : Word)
  | writePln (a : Nat) (v : Byte)
  | writeStr (a : Nat) (v : Byte)
  | readMem (space : Space) (a : Nat)
  | hardReset
  deriving DecidableEq, Repr

/-- Which decode command is in progress. -/
inductive DecodeCommand where
  | rleDec (k : BitVec 2)
  | decScan
  | decImage
  deriving DecidableEq, Repr

/-- Where a decode command in progress stands in the stream (R136, R141). -/
inductive DecodePhase where
  /-- inside `RleDecodeRow(dst)` with `done` bytes produced; `rest` are the plane rows still to decode after this one -/
  | row (dst : Option Nat) (done : Nat) (rest : List (Option Nat))
  /-- before the marker test of scanline `YCNT` -/
  | head
  /-- in the flat path, before pixel `x` of scanline `YCNT` -/
  | flat (x : Nat)
  deriving DecidableEq, Repr

/-- The hidden state of a decode command between two stream tokens (R30: it lives "only inside one command"). The
model's own field; `none` between commands, because a command is one atomic step (R7). Log 5. -/
structure Decoding where
  command : DecodeCommand
  phase   : DecodePhase
  deriving DecidableEq, Repr

structure State where
  /-- `F0` (R11) -/
  f0 : Word
  /-- `F1` (R11) -/
  f1 : Word
  /-- `F2` (R11) -/
  f2 : Word
  /-- `Q` (R13) -/
  q : Word
  /-- `WIDTH` (R15) -/
  width : Word
  /-- `HEIGHT` (R16) -/
  height : Word
  /-- `MODE` (R17): bit 0 is `RGB`, the rest is hardwired zero -/
  mode : Word
  /-- `PX` (R14) -/
  px : Word
  /-- `PY` (R14) -/
  py : Word
  /-- `YCNT` (R18) -/
  ycnt : Word
  /-- `SPOS` (R19) -/
  spos : Word
  /-- `SLEN` (R19) -/
  slen : Word
  /-- `STATUS` (R24): `ERR` in bits 3:0, `STRAT` in bit 4; `BUSY`, bit 5, is `decoding.isSome` -/
  status : Word
  /-- `ECMD` (R25) -/
  ecmd : Word
  /-- `IMG` (R21) -/
  img : Memory 32
  /-- `PLN` (R22) -/
  pln : Memory 8
  /-- `STR` (R23) -/
  str : Memory 8
  /-- the parameters of R4; no step changes them (R10, log 1) -/
  cfg : Config
  /-- the model's own: the number of hard resets, which picks the free values of unwritten memory (U9, log 2) -/
  powerOns : Nat
  /-- the host's program (R28, R183; log 3) -/
  program : List HostAction
  /-- the host's index into it, "the model's program counter" (R28) -/
  pc : Nat
  /-- the model's own: the value the host port returned for the last host read (R153, R154; log 4) -/
  readData : Word
  /-- a decode command in progress, none between commands (R7, R24 `BUSY`; log 5) -/
  decoding : Option Decoding
  deriving DecidableEq, Repr

/-- Why the model stops with a fault. The spec's own faults are not here: they are next states (R167). -/
inductive Fault where
  /-- Raised by the stream tokens when `decoding` holds a context that no decode command sets up (a plane row outside
  `PLN`, a finished row, a faulted machine). Safe: no run of the spec's machine is in such a state (log 7). -/
  | decoderContext
  deriving DecidableEq, Repr

/-- Why the model refuses. -/
inductive Refusal where
  /-- Raised by `exec` for an instruction that has no meaning yet. Safe. -/
  | notModelled (mnemonic : String)
  /-- Raised by every command when `BUSY = 1` (U10: "`refuse`: the model's host cannot act during a command"). Safe: the
  model's step never offers a command then (log 8). -/
  | commandWhileBusy
  deriving DecidableEq, Repr

/-- The machine right after a hard reset with parameters `c`, as power-on number `n`, with the host's program `p`
before its first action: every register 0 (R31), nothing written to any memory. -/
def State.resetWith (c : Config) (n : Nat) (p : List HostAction) : State :=
  { f0 := 0#32, f1 := 0#32, f2 := 0#32, q := 0#32
    width := 0#32, height := 0#32, mode := 0#32
    px := 0#32, py := 0#32, ycnt := 0#32
    spos := 0#32, slen := 0#32
    status := 0#32, ecmd := 0#32
    img := [], pln := [], str := []
    cfg := c, powerOns := n
    program := p, pc := 0, readData := 0#32
    decoding := none }

/-- The machine right after reset (R31, R180), with the parameters `Config.standard` (log 1) and no program (log 3). -/
def State.reset : State := State.resetWith Config.standard 0 []

end Sys2Proof.Machine
end

