-- ==== Sys2Proof/Machine/Flags.lean ====
section
/-! DEFINITION. The only flags: the fields of `STATUS` (R24, R29). -/

namespace Sys2Proof.Machine

/-- The value of `STATUS.ERR` for each fault (R160). -/
def FaultCode.code : FaultCode → BitVec 4
  | .malformedHeader => 1#4
  | .truncatedData => 2#4
  | .ioError => 3#4
  | .formatFault => 4#4
  | .configFault => 5#4

/-- `STATUS.ERR = STATUS[3:0]` (R24). -/
def State.err (s : State) : BitVec 4 := s.status.extractLsb' 0 4

/-- `STATUS.STRAT = STATUS[4]` (R24). -/
def State.strat (s : State) : Bool := s.status.getLsbD 4

/-- `STATUS.BUSY = STATUS[5]` (R24): a command is executing. -/
def State.busy (s : State) : Bool := s.decoding.isSome

/-- `STATUS.ERR <- c`. -/
def State.setErr (c : BitVec 4) (s : State) : State :=
  { s with status := (s.status &&& 0xFFFFFFF0#32) ||| c.setWidth 32 }

/-- `STATUS.STRAT <- b`. -/
def State.setStrat (b : Bool) (s : State) : State :=
  { s with status := (s.status &&& 0xFFFFFFEF#32) ||| (if b then 0x10#32 else 0#32) }

/-- `STATUS` as the host reads it (R24): `ERR`, `STRAT`, `BUSY`; bits 31:6 read 0. -/
def State.statusWord (s : State) : Word :=
  (s.status &&& 0x1F#32) ||| (if s.busy then 0x20#32 else 0#32)

end Sys2Proof.Machine
end

