-- ==== Sys2Proof/Machine/Operands.lean ====
section
/-! DEFINITION. The operand forms: fixed quantities (R4), geometry (R17, R22), quads in `Q` (R13), plane rows (R22,
R140) and what the geometry checks test (R166). -/

namespace Sys2Proof.Machine

/-- `MAXRUN` (R4). -/
def maxRun : Nat := 127
/-- `RLE_MIN_W` (R4). -/
def rleMinWidth : Nat := 8
/-- `RLE_MAX_W` (R4). -/
def rleMaxWidth : Nat := 32767
/-- `THRESH` as a binary32 pattern (R83). -/
def threshold : Nat := 0x0A4FB11F

/-- `MODE.RGB = MODE[0]` (R17). -/
def State.rgb (s : State) : Bool := s.mode.getLsbD 0

/-- `C = 3 if RGB else 1` (R17). -/
def State.channels (s : State) : Nat := if s.rgb then 3 else 1

/-- `P = 4 if RGB else 2` (R17). -/
def State.planes (s : State) : Nat := if s.rgb then 4 else 2

/-- `N = WIDTH * HEIGHT`, unbounded (R17). -/
def State.pixels (s : State) : Nat := s.width.toNat * s.height.toNat

/-- One pixel in quantized form (R9 "Quad"). -/
structure Quad where
  r : Byte
  g : Byte
  b : Byte
  e : Byte
  deriving DecidableEq, Repr

/-- The quad as register `Q` holds it: `r ++ g ++ b ++ e` (R13). -/
def Quad.word (q : Quad) : Word := q.r ++ q.g ++ q.b ++ q.e

/-- `Q.R`, `Q.G`, `Q.B`, `Q.E` (R13). -/
def State.quad (s : State) : Quad :=
  ⟨s.q.extractLsb' 24 8, s.q.extractLsb' 16 8, s.q.extractLsb' 8 8, s.q.extractLsb' 0 8⟩

/-- `CheckGeom(planes, useImg)` passes (R166). -/
def State.geomFits (planes : Nat) (useImg : Bool) (s : State) : Bool :=
  s.width != 0#32 && s.height != 0#32
    && decide (planes * s.pixels ≤ s.cfg.plnBytes)
    && (!useImg || decide (s.pixels * s.channels ≤ s.cfg.imgWords))

/-- The address in `PLN` of plane row `y` of plane `k` (R22). -/
def State.rowBase (k y : Nat) (s : State) : Nat := k * s.pixels + y * s.width.toNat

/-- The index of pixel (`PX`, `PY`) inside a plane (R22, R112). -/
def State.pixelIndex (s : State) : Nat := s.py.toNat * s.width.toNat + s.px.toNat

/-- The destinations of the four stream planes for scanline `y` (R140); `none` is the spec's `NONE`. -/
def State.destinations (y : Nat) (s : State) : List (Option Nat) :=
  if s.rgb then [some (s.rowBase 0 y), some (s.rowBase 1 y), some (s.rowBase 2 y), some (s.rowBase 3 y)]
  else [some (s.rowBase 0 y), none, none, some (s.rowBase 1 y)]

/-- The planes the encoder writes for one scanline, in order (R125, R126): R, G, B, E or R, R, R, E. -/
def State.planeOrder (s : State) : List Nat := if s.rgb then [0, 1, 2, 3] else [0, 0, 0, 1]

/-- `UseRle` (R124). -/
def State.useRle (s : State) : Bool :=
  decide (rleMinWidth ≤ s.width.toNat) && decide (s.width.toNat ≤ rleMaxWidth)

end Sys2Proof.Machine
end

