-- ==== Sys2Proof/Machine/Ops.lean ====
section
/-! DEFINITION. The named operations over memory and registers: memory cells (R20 to R23), the form every command's
pseudocode takes, `raise` and fault entry (R6, R167), the return from a fault (R152, R169), the stream primitives (R46
to R48), `CheckGeom` (R166), and the frame of a command (R150, R165). -/

namespace Sys2Proof.Machine

/-! ### Memory cells -/

/-- The cell at `a` if something has written it since the hard reset. -/
def Memory.cell? {w : Nat} : Memory w → Nat → Option (BitVec w)
  | [], _ => none
  | (b, v) :: m, a => if a = b then some v else Memory.cell? m a

/-- Write cell `a`, keeping addresses strictly rising. -/
def Memory.store {w : Nat} : Memory w → Nat → BitVec w → Memory w
  | [], a, v => [(a, v)]
  | (b, u) :: m, a, v =>
    if a < b then (a, v) :: (b, u) :: m
    else if a = b then (a, v) :: m
    else (b, u) :: Memory.store m a v

/-- Every listed address is above `lo`, and the addresses rise strictly. -/
def Memory.risesAbove {w : Nat} : Nat → Memory w → Bool
  | _, [] => true
  | lo, (a, _) :: m => decide (lo < a) && Memory.risesAbove a m

/-- The canonical form: addresses strictly rising. An unlisted address has no known value (it reads as a free value,
log 2), so no entry can equal it and none is ever removed. -/
def Memory.wf {w : Nat} : Memory w → Bool
  | [] => true
  | (a, _) :: m => Memory.risesAbove a m

/-- Every listed address is below the capacity of the space (R45). -/
def Memory.below {w : Nat} (cap : Nat) (m : Memory w) : Bool := m.all fun c => decide (c.1 < cap)

/-- `IMG[a]`; a cell nothing has written reads as its free value (U9). -/
def State.readImg (s : State) (a : Nat) : Word := (Memory.cell? s.img a).getD (Config.imgAtPowerOn s.powerOns a)

/-- `PLN[a]`. -/
def State.readPln (s : State) (a : Nat) : Byte := (Memory.cell? s.pln a).getD (Config.plnAtPowerOn s.powerOns a)

/-- `STR[a]`. -/
def State.readStr (s : State) (a : Nat) : Byte := (Memory.cell? s.str a).getD (Config.strAtPowerOn s.powerOns a)

/-- `IMG[a] <- v`. -/
def State.writeImg (a : Nat) (v : Word) (s : State) : State := { s with img := Memory.store s.img a v }

/-- `PLN[a] <- v`. -/
def State.writePln (a : Nat) (v : Byte) (s : State) : State := { s with pln := Memory.store s.pln a v }

/-- `STR[a] <- v`. -/
def State.writeStr (a : Nat) (v : Byte) (s : State) : State := { s with str := Memory.store s.str a v }

/-- `PLN[a .. a + n - 1]` as a list. -/
def State.plnSlice (s : State) : Nat → Nat → List Byte
  | _, 0 => []
  | a, n + 1 => s.readPln a :: s.plnSlice (a + 1) n

/-! ### Pseudocode -/

/-- A piece of a command's pseudocode: it runs on the state to a value or to a `raise`, and both keep every write made so
far (R6, R167). `EStateM.Result.ok a t` is the value `a` in state `t`, `.error f t` a `raise f` in state `t`. -/
abbrev Op (α : Type) := EStateM FaultCode State α

/-- `raise f` (R6). -/
def raise {α : Type} (f : FaultCode) : Op α := fun s => .error f s

/-- `if b then raise f`. -/
def raiseIf (b : Bool) (f : FaultCode) : Op Unit := fun s => if b then .error f s else .ok () s

/-- A plain write of state. -/
def update (f : State → State) : Op Unit := fun s => .ok () (f s)

/-- A piece of pseudocode that first reads the state. -/
def reading {α β : Type} (f : State → α) (k : α → Op β) : Op β := fun s => k (f s) s

/-- `for t in i .. i + n - 1 ascending: body t`. -/
def forUp (body : Nat → Op Unit) : Nat → Nat → Op Unit
  | 0, _ => pure ()
  | n + 1, i => do
    body i
    forUp body n (i + 1)

/-- `n` times `body`. -/
def times (body : Op Unit) : Nat → Op Unit
  | 0 => pure ()
  | n + 1 => do
    body
    times body n

/-- The state a piece of pseudocode leaves, whether it ran to its end or raised. -/
def Op.final {α : Type} (x : Op α) (s : State) : State :=
  match x s with
  | .ok _ t => t
  | .error _ t => t

/-! ### Stream primitives -/

/-- `GetByte(F)` (R46). -/
def getByte (f : FaultCode) : Op Byte := fun s =>
  if s.spos.toNat < s.slen.toNat then .ok (s.readStr s.spos.toNat) { s with spos := s.spos + 1#32 }
  else .error f s

/-- `PeekByte(i)` (R47). -/
def peekByte (s : State) (i : Nat) : Option Byte :=
  if s.spos.toNat + i < s.slen.toNat then some (s.readStr (s.spos.toNat + i)) else none

/-- The state after `PutByte(b)` has found room: the byte stored, `SPOS` advanced, `SLEN` moved up when passed (R48). -/
def State.pushByte (b : Byte) (s : State) : State :=
  { s with
    str := Memory.store s.str s.spos.toNat b
    spos := s.spos + 1#32
    slen := if s.slen.toNat < s.spos.toNat + 1 then s.spos + 1#32 else s.slen }

/-- `PutByte(b)` (R48). -/
def putByte (b : Byte) : Op Unit := fun s =>
  if s.spos.toNat < s.cfg.strBytes.toNat then .ok () (s.pushByte b) else .error .ioError s

/-- `PutByte` for each byte in order. -/
def putBytes : List Byte → Op Unit
  | [] => pure ()
  | b :: bs => do
    putByte b
    putBytes bs

/-! ### Checks -/

/-- `CheckGeom(planes, useImg)` (R166), with the plane count of the current mode or of the command. -/
def checkGeom (planes : State → Nat) (useImg : Bool) : Op Unit := fun s =>
  if s.geomFits (planes s) useImg then .ok () s else .error .configFault s

/-- `if YCNT >= HEIGHT then raise ConfigFault` (R127, R141). -/
def checkRow : Op Unit := fun s =>
  if s.ycnt.toNat < s.height.toNat then .ok () s else .error .configFault s

/-- `if k >= P or YCNT >= HEIGHT then raise ConfigFault` (R122, R137, R62). -/
def checkPlaneRow (k : BitVec 2) : Op Unit := fun s =>
  if k.toNat < s.planes ∧ s.ycnt.toNat < s.height.toNat then .ok () s else .error .configFault s

/-- `if PX >= WIDTH or PY >= HEIGHT then raise ConfigFault` (R112, R113). -/
def checkPixel : Op Unit := fun s =>
  if s.px.toNat < s.width.toNat ∧ s.py.toNat < s.height.toNat then .ok () s else .error .configFault s

/-! ### Taking a fault, and the return from one -/

/-- FAULT ENTRY (R167): `STATUS.ERR <- code(X)`, `ECMD <- w`, `STATUS.BUSY <- 0`; nothing else changes, no handler, no
saved state, no mode change. Control goes back to the host. -/
def State.enterFault (f : FaultCode) (w : Word) (s : State) : State :=
  { s.setErr f.code with ecmd := w, decoding := none }

/-- THE RETURN FROM A FAULT (R152, R169): every register takes its reset value; the three memories keep their contents. -/
def State.softReset (s : State) : State :=
  { s with
    f0 := 0#32, f1 := 0#32, f2 := 0#32, q := 0#32
    width := 0#32, height := 0#32, mode := 0#32
    px := 0#32, py := 0#32, ycnt := 0#32
    spos := 0#32, slen := 0#32
    status := 0#32, ecmd := 0#32 }

/-- What a command's pseudocode comes to (R150, R167): a `raise` is taken as a fault of command word `w`. -/
def settle (w : Word) (r : EStateM.Result FaultCode State Unit) : Host.Outcome State Fault Refusal :=
  match r with
  | .ok _ t => .next t
  | .error f t => .next (t.enterFault f w)

/-- The frame of every command but SRST (R150, R165, R168): no command while another executes (U10); ignored with no
state change while `STATUS.ERR != 0`; otherwise the pseudocode runs. -/
def command (w : Word) (body : Op Unit) (s : State) : Host.Outcome State Fault Refusal :=
  if s.busy then .refused .commandWhileBusy
  else if s.err ≠ 0#4 then .next s
  else settle w (body s)

end Sys2Proof.Machine
end

