-- ==== Sys2Proof/Machine/Control.lean ====
section
/-! DEFINITION. The control family (spec/45_control.md): NOP and SRST. -/

namespace Sys2Proof.Machine

/-- NOP (R151): no effect. -/
def execNop (s : State) : Host.Outcome State Fault Refusal := command (Instr.word .nop) (pure ()) s

/-- SRST (R152): "the only command executed while `STATUS.ERR != 0`". -/
def execSrst (s : State) : Host.Outcome State Fault Refusal :=
  if s.busy then .refused .commandWhileBusy else .next s.softReset

end Sys2Proof.Machine
end

