-- ==== Sys2Proof/Machine/Header.lean ====
section
/-! DEFINITION. The Header Codec (spec/41_header_codec.md): HDR_WR and HDR_RD. -/

namespace Sys2Proof.Machine

/-- `"#?RGBE"` (R70). -/
def magicText : List Byte := [0x23#8, 0x3F#8, 0x52#8, 0x47#8, 0x42#8, 0x45#8]

/-- `"FORMAT=32-bit_rle_rgbe"` (R70). -/
def formatText : List Byte :=
  [0x46#8, 0x4F#8, 0x52#8, 0x4D#8, 0x41#8, 0x54#8, 0x3D#8, 0x33#8, 0x32#8, 0x2D#8, 0x62#8]
    ++ [0x69#8, 0x74#8, 0x5F#8, 0x72#8, 0x6C#8, 0x65#8, 0x5F#8, 0x72#8, 0x67#8, 0x62#8, 0x65#8]

/-- `"-Y "` (R70). -/
def heightTag : List Byte := [0x2D#8, 0x59#8, 0x20#8]

/-- `" +X "` (R70). -/
def widthTag : List Byte := [0x20#8, 0x2B#8, 0x58#8, 0x20#8]

/-- The line end, the one byte 0x0A (R40, R104). -/
def lineEnd : Byte := 0x0A#8

/-- The digits of `n`, most significant first; `fuel` bounds their number. -/
def decimalDigits : Nat → Nat → List Byte
  | 0, _ => []
  | fuel + 1, n =>
    if n < 10 then [BitVec.ofNat 8 (0x30 + n)]
    else decimalDigits fuel (n / 10) ++ [BitVec.ofNat 8 (0x30 + n % 10)]

/-- `Dec(n)` (R102): "at most 10 for a 32-bit value". -/
def decimal (n : Word) : List Byte := decimalDigits 10 n.toNat

/-- The bytes of the header (R70, R101). -/
def headerText (height width : Word) : List Byte :=
  magicText ++ [lineEnd] ++ (formatText ++ [lineEnd]) ++ [lineEnd]
    ++ (heightTag ++ decimal height ++ widthTag ++ decimal width ++ [lineEnd])

/-- The writes of HDR_WR, after its check (R101, used by R128). -/
def writeHeader : Op Unit := reading (fun s => headerText s.height s.width) putBytes

/-- HDR_WR (R101). -/
def execHdrWr (s : State) : Host.Outcome State Fault Refusal :=
  command (Instr.word .hdrWr)
    (do
      reading (fun s => s.width == 0#32 || s.height == 0#32) fun z => raiseIf z .configFault
      writeHeader) s

/-- An ASCII digit (R102, R105). -/
def isDigit (b : Byte) : Bool := decide (0x30 ≤ b.toNat) && decide (b.toNat ≤ 0x39)

/-- The leading digits of a byte sequence, as their base-ten value, how many they are, and what follows them. -/
def takeDigits : List Byte → Nat → Nat → Nat × Nat × List Byte
  | [], value, count => (value, count, [])
  | b :: bs, value, count =>
    if isDigit b then takeDigits bs (value * 10 + (b.toNat - 0x30)) (count + 1) else (value, count, b :: bs)

/-- What follows `tag` in a byte sequence that begins with it. -/
def afterTag : List Byte → List Byte → Option (List Byte)
  | [], bs => some bs
  | _ :: _, [] => none
  | t :: ts, b :: bs => if t = b then afterTag ts bs else none

/-- An integer of a dimension line: not 0 and at most 4294967295 (R105). -/
def dimension (value : Nat) : Option Word :=
  if 1 ≤ value ∧ value ≤ 4294967295 then some (BitVec.ofNat 32 value) else none

/-- `ParseDim(L)` (R105): (height, width), or failure. -/
def parseDimensions (line : List Byte) : Option (Word × Word) :=
  match afterTag heightTag line with
  | none => none
  | some l1 =>
    match takeDigits l1 0 0 with
    | (h, nh, l2) =>
      match afterTag widthTag l2 with
      | none => none
      | some l3 =>
        match takeDigits l3 0 0 with
        | (w, nw, l4) =>
          if nh = 0 ∨ nw = 0 ∨ l4 ≠ [] then none
          else
            match dimension h, dimension w with
            | some h', some w' => some (h', w')
            | _, _ => none

/-- `ReadLine()` (R104), the bytes read so far in `acc`. `fuel` is `SLEN - SPOS`, what the stream still holds: with none
left `GetByte` raises. -/
def readLineFrom : Nat → List Byte → Op (List Byte)
  | 0, _ => raise .malformedHeader
  | fuel + 1, acc => do
    let b ← getByte .malformedHeader
    if b = lineEnd then pure acc else readLineFrom fuel (acc ++ [b])

/-- `ReadLine()` (R104). -/
def readLine : Op (List Byte) := reading (fun s => s.slen.toNat - s.spos.toNat) fun n => readLineFrom n []

/-- `HEIGHT <- h; WIDTH <- w`. -/
def State.setDimensions (h w : Word) (s : State) : State := { s with height := h, width := w }

/-- What HDR_RD does at the dimension line (R103). -/
def takeDimensions (seen : Bool) (line : List Byte) : Op Unit :=
  if seen then
    match parseDimensions line with
    | some (h, w) => update (State.setDimensions h w)
    | none => raise .malformedHeader
  else raise .malformedHeader

/-- The loop of HDR_RD (R103). Every line takes at least one byte of the stream, so `fuel`, what the stream held at the
start, outlasts it: with none left the next `ReadLine` raises. -/
def readFields : Nat → Bool → Op Unit
  | 0, _ => raise .malformedHeader
  | fuel + 1, seen => do
    let line ← readLine
    if line = formatText then readFields fuel true
    else if line.take 3 = heightTag then takeDimensions seen line
    else readFields fuel seen

/-- The pseudocode of HDR_RD (R103), also the first step of DEC_IMAGE (R142). -/
def readHeader : Op Unit := do
  let line ← readLine
  raiseIf (line != magicText) .malformedHeader
  reading (fun s => s.slen.toNat - s.spos.toNat) fun n => readFields n false

/-- HDR_RD (R103). -/
def execHdrRd (s : State) : Host.Outcome State Fault Refusal := command (Instr.word .hdrRd) readHeader s

end Sys2Proof.Machine
end

