-- ==== Sys2Proof/Machine/Converter.lean ====
section
/-! DEFINITION. The Color Converter (spec/40_color_converter.md): the functions `FloatToRgbe` and `RgbeToFloat`, and
F2RGBE, RGBE2F, F2RE, RE2F. -/

namespace Sys2Proof.Machine

/-! ### binary32 patterns (R81) -/

/-- `s = w[31]`. -/
def signBit (w : Word) : Bool := w.getLsbD 31

/-- `x = w[30:23]`. -/
def expField (w : Word) : Nat := (w.extractLsb' 23 8).toNat

/-- `f = w[22:0]`. -/
def fracField (w : Word) : Nat := (w.extractLsb' 0 23).toNat

/-- NaN: `x = 255, f != 0`. -/
def isNaN (w : Word) : Bool := expField w == 255 && fracField w != 0

/-- `canon(w)` (R82): NaN to +0.0, +infinity to the largest finite value, every other pattern unchanged. -/
def canonical : NonFinite → Word → Word
  | .canon, w => if isNaN w then 0#32 else if w = 0x7F800000#32 then 0x7F7FFFFF#32 else w

/-- `OVF_MODE = sat255` (R84): an operand above `0x7EFFFFFF`, "the largest value below 2^127", becomes it. An operand
that is not above it, negative ones included, is unchanged (log 12). -/
def limitOperand : OvfMode → Word → Word
  | .wrap, w => w
  | .sat255, w => if !signBit w && decide (0x7EFFFFFF < w.toNat) then 0x7EFFFFFF#32 else w

/-- The key by which `max` is found (R86): the pattern of a non-negative value; a negative value counts as 0, which is
below the threshold as R86's -1 is. -/
def maxKey (w : Word) : Nat := if signBit w then 0 else w.toNat

/-- `max` as a pattern (R83). -/
def maxPattern (w0 w1 w2 : Word) : Nat := max (maxKey w0) (max (maxKey w1) (maxKey w2))

/-- The integer significand: `f` when subnormal, `2^23 + f` when normal (R81). -/
def significand (w : Word) : Nat := if expField w = 0 then fracField w else 2 ^ 23 + fracField w

/-- `trunc(|c| * 2^(8-e))` (R85) with `e = x_max - 126` (R84): `|c| = significand * 2^(x - 150)` with `x` at least 1. -/
def scaledMagnitude (xmax : Nat) (w : Word) : Nat :=
  if xmax + 16 ≤ max 1 (expField w) then significand w <<< (max 1 (expField w) - (xmax + 16))
  else significand w >>> (xmax + 16 - max 1 (expField w))

/-- The mantissa byte of one channel (R85). `free` is the free value of a negative infinity under `wrap8` (log 9). -/
def mantissa (neg : NegMode) (free : Byte) (xmax : Nat) (w : Word) : Byte :=
  if signBit w then
    match neg with
    | .clamp0 => 0#8
    | .wrap8 => if w = 0xFF800000#32 then free else -(BitVec.ofNat 8 (scaledMagnitude xmax w))
  else BitVec.ofNat 8 (scaledMagnitude xmax w)

/-- R83 to R85 on operands that R82 and `OVF_MODE` have already replaced. -/
def quantize (neg : NegMode) (v0 v1 v2 : Word) : Quad :=
  let k := maxPattern v0 v1 v2
  if k < threshold then ⟨0#8, 0#8, 0#8, 0#8⟩
  else
    let xmax := k >>> 23
    { r := mantissa neg (Config.negInfMantissa 0 v0 v1 v2) xmax v0
      g := mantissa neg (Config.negInfMantissa 1 v0 v1 v2) xmax v1
      b := mantissa neg (Config.negInfMantissa 2 v0 v1 v2) xmax v2
      e := BitVec.ofNat 8 (xmax + 2) }

/-- An operand as the converter takes it: `canon` (R82), then `OVF_MODE`'s limit (R84). -/
def operand (c : Config) (w : Word) : Word := limitOperand c.ovfMode (canonical c.nonFinite w)

/-- `FloatToRgbe` (R80 to R86): total, a function of its operands and the three modes. -/
def floatToRgbe (c : Config) (w0 w1 w2 : Word) : Quad :=
  quantize c.negMode (operand c w0) (operand c w1) (operand c w2)

/-- `floor(log2(M))` of a byte that is not 0 (R90). -/
def topBit (m : Byte) : Nat :=
  if 128 ≤ m.toNat then 7
  else if 64 ≤ m.toNat then 6
  else if 32 ≤ m.toNat then 5
  else if 16 ≤ m.toNat then 4
  else if 8 ≤ m.toNat then 3
  else if 4 ≤ m.toNat then 2
  else if 2 ≤ m.toNat then 1
  else 0

/-- `DecodeChannel(M, E)` for `E != 0` (R90). `x = h + E - 9` is at least 1 exactly when `h + E` is at least 10. -/
def decodeChannel (m e : Byte) : Word :=
  if m = 0#8 then 0#32
  else
    let h := topBit m
    if 10 ≤ h + e.toNat then
      BitVec.ofNat 32 (((h + e.toNat - 9) <<< 23) + (m.toNat <<< (23 - h)) % 2 ^ 23)
    else BitVec.ofNat 32 (m.toNat <<< (e.toNat + 13))

/-- One channel of `RgbeToFloat` (R89): `E = 0` gives +0.0 whatever the mantissa. -/
def channelToFloat (m e : Byte) : Word := if e = 0#8 then 0#32 else decodeChannel m e

/-! ### The commands -/

/-- `Q <- r ++ g ++ b ++ e`. -/
def State.setQuad (q : Quad) (s : State) : State := { s with q := q.word }

/-- `F0 <- v0; F1 <- v1; F2 <- v2`. -/
def State.setFloats (v0 v1 v2 : Word) (s : State) : State := { s with f0 := v0, f1 := v1, f2 := v2 }

/-- The quad of the three `F` operands (R87). -/
def State.packRgb (s : State) : Quad := floatToRgbe s.cfg s.f0 s.f1 s.f2

/-- The gray quad of `F0` (R92): "assuming `r=g=b`", the mantissa three times. -/
def State.packGray (s : State) : Quad :=
  let q := floatToRgbe s.cfg s.f0 s.f0 s.f0
  ⟨q.r, q.r, q.r, q.e⟩

/-- F2RGBE (R87). -/
def execF2rgbe (s : State) : Host.Outcome State Fault Refusal :=
  command (Instr.word .f2rgbe) (update fun s => s.setQuad s.packRgb) s

/-- RGBE2F (R91). -/
def execRgbe2f (s : State) : Host.Outcome State Fault Refusal :=
  command (Instr.word .rgbe2f)
    (update fun s => s.setFloats (channelToFloat s.quad.r s.quad.e) (channelToFloat s.quad.g s.quad.e)
      (channelToFloat s.quad.b s.quad.e)) s

/-- F2RE (R92). -/
def execF2re (s : State) : Host.Outcome State Fault Refusal :=
  command (Instr.word .f2re) (update fun s => s.setQuad s.packGray) s

/-- RE2F (R93). -/
def execRe2f (s : State) : Host.Outcome State Fault Refusal :=
  command (Instr.word .re2f)
    (update fun s => s.setFloats (channelToFloat s.quad.r s.quad.e) (channelToFloat s.quad.r s.quad.e)
      (channelToFloat s.quad.r s.quad.e)) s

end Sys2Proof.Machine
end

