-- ==== Sys2Proof/Machine/PlaneBuffer.lean ====
section
/-! DEFINITION. The plane buffer commands (spec/42_plane_buffer.md): PLN_CLR, INS_RGBE, INS_RE, IMG2PLN, PLN2IMG. -/

namespace Sys2Proof.Machine

/-- PLN_CLR (R111). -/
def execPlnClr (s : State) : Host.Outcome State Fault Refusal :=
  command (Instr.word .plnClr)
    (do
      checkGeom State.planes false
      reading (fun s => s.planes * s.pixels) fun n => forUp (fun a => update (State.writePln a 0#8)) n 0) s

/-- A quad at pixel `p` of the four-plane layout (R22, R112). -/
def State.storeQuad (p : Nat) (q : Quad) (s : State) : State :=
  (((s.writePln p q.r).writePln (s.pixels + p) q.g).writePln (2 * s.pixels + p) q.b).writePln (3 * s.pixels + p) q.e

/-- The pair R, E at pixel `p` of the two-plane layout (R22, R113). -/
def State.storePair (p : Nat) (q : Quad) (s : State) : State :=
  (s.writePln p q.r).writePln (s.pixels + p) q.e

/-- INS_RGBE (R112): always the four-plane layout. -/
def execInsRgbe (s : State) : Host.Outcome State Fault Refusal :=
  command (Instr.word .insRgbe)
    (do
      checkGeom (fun _ => 4) false
      checkPixel
      update fun s => (s.setQuad s.packRgb).storeQuad s.pixelIndex s.packRgb) s

/-- INS_RE (R113): always the two-plane layout. -/
def execInsRe (s : State) : Host.Outcome State Fault Refusal :=
  command (Instr.word .insRe)
    (do
      checkGeom (fun _ => 2) false
      checkPixel
      update fun s => (s.setQuad s.packGray).storePair s.pixelIndex s.packGray) s

/-- One pixel of the loop of IMG2PLN (R114). -/
def State.quantizePixel (p : Nat) (s : State) : State :=
  if s.rgb then s.storeQuad p (floatToRgbe s.cfg (s.readImg (3 * p)) (s.readImg (3 * p + 1)) (s.readImg (3 * p + 2)))
  else s.storePair p (floatToRgbe s.cfg (s.readImg p) (s.readImg p) (s.readImg p))

/-- The loop of IMG2PLN (R114, used by R128). -/
def quantizeImage : Op Unit := reading State.pixels fun n => forUp (fun p => update (State.quantizePixel p)) n 0

/-- IMG2PLN (R114). -/
def execImg2pln (s : State) : Host.Outcome State Fault Refusal :=
  command (Instr.word .img2pln)
    (do
      checkGeom State.planes true
      quantizeImage) s

/-- One pixel of the loop of PLN2IMG (R115). -/
def State.unpackPixel (p : Nat) (s : State) : State :=
  if s.rgb then
    let e := s.readPln (3 * s.pixels + p)
    ((s.writeImg (3 * p) (channelToFloat (s.readPln p) e)).writeImg (3 * p + 1)
        (channelToFloat (s.readPln (s.pixels + p)) e)).writeImg (3 * p + 2)
      (channelToFloat (s.readPln (2 * s.pixels + p)) e)
  else s.writeImg p (channelToFloat (s.readPln p) (s.readPln (s.pixels + p)))

/-- The loop of PLN2IMG (R115, used by R142). -/
def unpackImage : Op Unit := reading State.pixels fun n => forUp (fun p => update (State.unpackPixel p)) n 0

/-- PLN2IMG (R115). -/
def execPln2img (s : State) : Host.Outcome State Fault Refusal :=
  command (Instr.word .pln2img)
    (do
      checkGeom State.planes true
      unpackImage) s

end Sys2Proof.Machine
end

