-- ==== Sys2Proof/Machine/Encoder.lean ====
section
/-! DEFINITION. The Scanline Encoder (spec/43_scanline_encoder.md): RLE_ENC, ENC_SCAN, ENC_IMAGE. -/

namespace Sys2Proof.Machine

/-- How many bytes of the sequence equal `v` without a gap from its start, at most `cap`. -/
def equalRun (v : Byte) : Nat → List Byte → Nat
  | 0, _ => 0
  | _ + 1, [] => 0
  | cap + 1, b :: bs => if b = v then equalRun v cap bs + 1 else 0

/-- The length of the dump run at the start of the sequence (R121): it stops before the first byte that equals its
successor, and at `cap`. -/
def dumpRun : Nat → List Byte → Nat
  | 0, _ => 0
  | _ + 1, [] => 0
  | _ + 1, [_] => 1
  | cap + 1, b :: c :: bs => if c = b then 0 else dumpRun cap (c :: bs) + 1

/-- The runs of `RleEncodeRow` (R121) from the current position; `fuel` is at least the number of bytes left. -/
def rleRuns : Nat → List Byte → List Byte
  | 0, _ => []
  | _ + 1, [] => []
  | fuel + 1, b :: bs =>
    let k := equalRun b (maxRun - 1) bs + 1
    if 2 ≤ k then BitVec.ofNat 8 (128 + k) :: b :: rleRuns fuel ((b :: bs).drop k)
    else
      let n := dumpRun maxRun (b :: bs)
      BitVec.ofNat 8 n :: ((b :: bs).take n ++ rleRuns fuel ((b :: bs).drop n))

/-- `RleEncodeRow(row)` (R121). -/
def rleEncodeRow (row : List Byte) : List Byte := rleRuns row.length row

/-- Plane row `y` of plane `k` (R22). -/
def State.planeRow (k y : Nat) (s : State) : List Byte := s.plnSlice (s.rowBase k y) s.width.toNat

/-- `for each byte b of RleEncodeRow(PLN[base .. base + WIDTH - 1]) in order: PutByte(b)` (R122, R125). -/
def encodePlaneRow (k y : Nat) : Op Unit := reading (fun s => rleEncodeRow (s.planeRow k y)) putBytes

/-- RLE_ENC k (R122). -/
def execRleEnc (k : BitVec 2) (s : State) : Host.Outcome State Fault Refusal :=
  command (Instr.word (.rleEnc k))
    (do
      checkGeom State.planes false
      checkPlaneRow k
      reading State.ycnt fun y => encodePlaneRow k.toNat y.toNat) s

/-- The four marker bytes for the current `WIDTH` (R67). -/
def State.markerBytes (s : State) : List Byte :=
  [2#8, 2#8, BitVec.ofNat 8 (s.width.toNat / 256), BitVec.ofNat 8 (s.width.toNat % 256)]

/-- The plane rows of one RLE scanline, in order (R125). -/
def encodePlaneRows (y : Nat) : List Nat → Op Unit
  | [] => pure ()
  | k :: ks => do
    encodePlaneRow k y
    encodePlaneRows y ks

/-- `EncScanRle(y)` (R125). -/
def encodeScanRle (y : Nat) : Op Unit := do
  reading State.markerBytes putBytes
  reading State.planeOrder (encodePlaneRows y)

/-- The quad written for pixel `x` of scanline `y` (R126): R, G, B, E or R, R, R, E. -/
def State.flatQuad (y x : Nat) (s : State) : List Byte := s.planeOrder.map fun k => s.readPln (s.rowBase k y + x)

/-- `EncScanFlat(y)` (R126). -/
def encodeScanFlat (y : Nat) : Op Unit :=
  reading (fun s => s.width.toNat) fun w => forUp (fun x => reading (State.flatQuad y x) putBytes) w 0

/-- The end of a scanline (R127, R141): `STATUS.STRAT <- b; YCNT <- YCNT + 1`. -/
def State.endScan (b : Bool) (s : State) : State := { s.setStrat b with ycnt := s.ycnt + 1#32 }

/-- One scanline in the form the strategy selects (R127). -/
def encodeScanAs (rle : Bool) (y : Nat) : Op Unit := if rle then encodeScanRle y else encodeScanFlat y

/-- ENC_SCAN from its third line (R127, used by R128). -/
def encodeScan : Op Unit :=
  reading (fun s => (s.useRle, s.ycnt.toNat)) fun c => do
    encodeScanAs c.1 c.2
    update (State.endScan c.1)

/-- ENC_SCAN (R127). -/
def execEncScan (s : State) : Host.Outcome State Fault Refusal :=
  command (Instr.word .encScan)
    (do
      checkGeom State.planes false
      checkRow
      encodeScan) s

/-- `YCNT <- 0`. -/
def State.firstScan (s : State) : State := { s with ycnt := 0#32 }

/-- ENC_IMAGE (R128). The loop `while YCNT < HEIGHT` starts at `YCNT = 0` and every scanline adds 1, so it is `HEIGHT`
scanlines (log 13). DESIGN CHOICE (log 16): when the header's writes raise IoError, `YCNT` keeps its value, as in R128's
pseudocode, where `YCNT <- 0` comes after them (R167); R128's prose says "or 0 if the header failed". -/
def execEncImage (s : State) : Host.Outcome State Fault Refusal :=
  command (Instr.word .encImage)
    (do
      checkGeom State.planes true
      quantizeImage
      writeHeader
      update State.firstScan
      reading (fun s => s.height.toNat) (times encodeScan)) s

end Sys2Proof.Machine
end

