-- ==== Sys2Proof/Machine/Decoder.lean ====
section
/-! DEFINITION. The Scanline Decoder (spec/44_scanline_decoder.md): RLE_DEC, DEC_SCAN, DEC_IMAGE. -/

namespace Sys2Proof.Machine

/-- `if dst != NONE then PLN[dst + i] <- v` (R136, R141). -/
def storeAt (dst : Option Nat) (i : Nat) (v : Byte) : Op Unit :=
  match dst with
  | none => pure ()
  | some a => update (State.writePln (a + i) v)

/-- `if n > WIDTH - done then raise FormatFault` (R136). -/
def checkRun (done n : Nat) : Op Unit := reading (fun s => decide (s.width.toNat - done < n)) fun b => raiseIf b .formatFault

/-- A repeat run of length `n` whose control byte has been read (R136): the length check, the value byte, `n` copies. -/
def repeatRun (n : Nat) (dst : Option Nat) (done : Nat) : Op Unit := do
  checkRun done n
  let v ← getByte .truncatedData
  forUp (fun t => storeAt dst (done + t) v) n 0

/-- A dump run of length `n` whose control byte has been read (R136): the length check, then `n` literals. -/
def literalRun (n : Nat) (dst : Option Nat) (done : Nat) : Op Unit := do
  checkRun done n
  forUp (fun t => do
    let v ← getByte .truncatedData
    storeAt dst (done + t) v) n 0

/-- The length a control byte other than 0 gives its run (R66, R136). -/
def runLength (c : Byte) : Nat := if 129 ≤ c.toNat then c.toNat - 128 else c.toNat

/-- The run of control byte `c`, already read (R136). -/
def controlRun (c : Byte) (dst : Option Nat) (done : Nat) : Op Unit :=
  if c = 0#8 then raise .formatFault
  else if 129 ≤ c.toNat then repeatRun (runLength c) dst done
  else literalRun (runLength c) dst done

/-- One turn of the loop of `RleDecodeRow` (R136): a control byte and its run; the number of bytes produced. -/
def decodeRun (dst : Option Nat) (done : Nat) : Op Nat := do
  let c ← getByte .truncatedData
  controlRun c dst done
  pure (runLength c)

/-- The loop of `RleDecodeRow` (R136): `while done < WIDTH`. Every run produces at least one byte, so `fuel`, the bytes
missing at the start, outlasts it. -/
def decodeRuns (dst : Option Nat) : Nat → Nat → Op Unit
  | 0, _ => pure ()
  | fuel + 1, done => reading (fun s => decide (done < s.width.toNat)) fun more =>
    if more then do
      let n ← decodeRun dst done
      decodeRuns dst fuel (done + n)
    else pure ()

/-- `RleDecodeRow(dst)` (R136). -/
def rleDecodeRow (dst : Option Nat) : Op Unit := reading (fun s => s.width.toNat) fun w => decodeRuns dst w 0

/-- RLE_DEC k (R137). -/
def execRleDec (k : BitVec 2) (s : State) : Host.Outcome State Fault Refusal :=
  command (Instr.word (.rleDec k))
    (do
      checkGeom State.planes false
      checkPlaneRow k
      reading (fun s => s.rowBase k.toNat s.ycnt.toNat) fun a => rleDecodeRow (some a)) s

/-- `IsMarker()` (R139). -/
def isMarker (s : State) : Bool :=
  match peekByte s 0, peekByte s 1, peekByte s 2, peekByte s 3 with
  | some a, some b, some h, some l => a == 2#8 && b == 2#8 && h.toNat * 256 + l.toNat == s.width.toNat
  | _, _, _, _ => false

/-- `RleDecodeRow` of each destination in order (R141). -/
def decodeRows : List (Option Nat) → Op Unit
  | [] => pure ()
  | d :: ds => do
    rleDecodeRow d
    decodeRows ds

/-- The four bytes of a marker, read and dropped (R141). -/
def skipMarker : Op Unit :=
  times (do
    let _ ← getByte .truncatedData
    pure ()) 4

/-- Pixel `x` of a flat scanline (R141): one byte for each destination in order. -/
def flatPixel (x : Nat) : List (Option Nat) → Op Unit
  | [] => pure ()
  | d :: ds => do
    let v ← getByte .truncatedData
    storeAt d x v
    flatPixel x ds

/-- One scanline in RLE form, its marker not yet consumed (R141). -/
def decodeScanRle (dst : List (Option Nat)) : Op Unit := do
  skipMarker
  decodeRows dst

/-- One flat scanline (R141). -/
def decodeScanFlat (dst : List (Option Nat)) : Op Unit :=
  reading (fun s => s.width.toNat) fun w => forUp (fun x => flatPixel x dst) w 0

/-- One scanline in the form the marker test finds (R141). -/
def decodeScanAs (marker : Bool) (dst : List (Option Nat)) : Op Unit :=
  if marker then decodeScanRle dst else decodeScanFlat dst

/-- DEC_SCAN from its third line (R141, used by R142). -/
def decodeScan : Op Unit :=
  reading (fun s => (s.destinations s.ycnt.toNat, isMarker s)) fun c => do
    decodeScanAs c.2 c.1
    update (State.endScan c.2)

/-- DEC_SCAN (R141). -/
def execDecScan (s : State) : Host.Outcome State Fault Refusal :=
  command (Instr.word .decScan)
    (do
      checkGeom State.planes false
      checkRow
      decodeScan) s

/-- DEC_IMAGE (R142): the header, the check with the new geometry, `HEIGHT` scanlines (as in R128, log 13), the loop of
PLN2IMG. -/
def execDecImage (s : State) : Host.Outcome State Fault Refusal :=
  command (Instr.word .decImage)
    (do
      readHeader
      checkGeom State.planes true
      update State.firstScan
      reading (fun s => s.height.toNat) (times decodeScan)
      unpackImage) s

end Sys2Proof.Machine
end

