-- ==== Sys2Proof/Machine/Tokens.lean ====
section
/-! DEFINITION. The stream tokens (R65 to R67, R72): what the scanline decoder does when it has read one, as one step of
a decode command in progress (log 5). The run tokens use the very operations of `RleDecodeRow` (Decoder.lean). -/

namespace Sys2Proof.Machine

/-- The command word of a decode command: what a `raise` in it records in `ECMD` (R167). -/
def DecodeCommand.word : DecodeCommand → Word
  | .rleDec k => Instr.word (.rleDec k)
  | .decScan => Instr.word .decScan
  | .decImage => Instr.word .decImage

/-- A destination row lies inside the planes of the current geometry (R45, R140). -/
def State.rowInside (s : State) (dst : Option Nat) : Bool :=
  match dst with
  | none => true
  | some a => decide (a + s.width.toNat ≤ s.planes * s.pixels)

/-- The decode context is one a decode command can be in: no fault, its checks passed (R137, R141, R142, R166), the row
not yet finished, its destinations inside `PLN`. -/
def State.decodable (d : Decoding) (s : State) : Bool :=
  s.err == 0#4
    && s.geomFits s.planes (match d.command with | .rleDec _ | .decScan => false | .decImage => true)
    && decide (s.ycnt.toNat < s.height.toNat)
    && (match d.phase with
      | .row dst done rest => decide (done < s.width.toNat) && s.rowInside dst && rest.all s.rowInside
      | .head => true
      | .flat x => decide (x < s.width.toNat))

/-- The command goes on at phase `p`. -/
def State.decodeAt (c : DecodeCommand) (p : DecodePhase) (s : State) : State :=
  { s with decoding := some { command := c, phase := p } }

/-- The command is complete. -/
def State.decodeDone (s : State) : State := { s with decoding := none }

/-- After the last row or pixel of a scanline (R141, R142): `STRAT`, `YCNT + 1`; DEC_IMAGE goes on with the next scanline
and, after the last, with the loop of PLN2IMG. RLE_DEC has no scanline end (R137). -/
def State.scanDone (c : DecodeCommand) (b : Bool) (s : State) : State :=
  match c with
  | .rleDec _ => s.decodeDone
  | .decScan => (s.endScan b).decodeDone
  | .decImage =>
    if (s.endScan b).ycnt.toNat < s.height.toNat then (s.endScan b).decodeAt .decImage .head
    else (unpackImage.final (s.endScan b)).decodeDone

/-- After a run: the row goes on, or the next row begins, or the scanline is done (R136, R141). -/
def State.runDone (c : DecodeCommand) (dst : Option Nat) (done : Nat) (rest : List (Option Nat)) (s : State) : State :=
  if done < s.width.toNat then s.decodeAt c (.row dst done rest)
  else
    match rest with
    | d :: ds => s.decodeAt c (.row d 0 ds)
    | [] => s.scanDone c true

/-- A run token of length `n`, its control byte read (R136): `body` runs in the row in progress. Outside a row the byte is
plain data that no decoder is reading, and nothing happens (log 6). -/
def runToken (n : Nat) (body : Option Nat → Nat → Op Unit) (s : State) : Host.Outcome State Fault Refusal :=
  match s.decoding with
  | some ⟨c, .row dst done rest⟩ =>
    if s.decodable ⟨c, .row dst done rest⟩ then
      match body dst done s with
      | .ok _ t => .next (t.runDone c dst (done + n) rest)
      | .error f t => .next (t.enterFault f c.word)
    else .fault .decoderContext
  | some ⟨_, .head⟩ | some ⟨_, .flat _⟩ | none => .next s

/-- RLE_ZERO (R72 (a)): FormatFault. -/
def execRleZero (s : State) : Host.Outcome State Fault Refusal := runToken 0 (fun _ _ => raise .formatFault) s

/-- RLE_DUMP n (R66, R136). -/
def execRleDump (n : BitVec 7) (s : State) : Host.Outcome State Fault Refusal := runToken n.toNat (literalRun n.toNat) s

/-- RLE_DUMP128 (R66, R138 (a)): a dump of 128 literals. -/
def execRleDump128 (s : State) : Host.Outcome State Fault Refusal := runToken 128 (literalRun 128) s

/-- RLE_REPEAT1 (R66, R138 (a)): a repeat of length 1. -/
def execRleRepeat1 (s : State) : Host.Outcome State Fault Refusal := runToken 1 (repeatRun 1) s

/-- RLE_REPEAT n (R66, R136). -/
def execRleRepeat (n : BitVec 7) (s : State) : Host.Outcome State Fault Refusal := runToken n.toNat (repeatRun n.toNat) s

/-- One quad's bytes to the destinations of pixel `x` (R141). -/
def State.storeFlat (x : Nat) : List (Option Nat) → List Byte → State → State
  | some a :: ds, v :: vs, s => State.storeFlat x ds vs (s.writePln (a + x) v)
  | none :: ds, _ :: vs, s => State.storeFlat x ds vs s
  | [], _, s => s
  | _ :: _, [], s => s

/-- Pixel `x` of a flat scanline of command `c`, its four bytes read (R141). -/
def pixelToken (c : DecodeCommand) (x : Nat) (q : Quad) (s : State) : Host.Outcome State Fault Refusal :=
  let t := s.storeFlat x (s.destinations s.ycnt.toNat) [q.r, q.g, q.b, q.e]
  if x + 1 < s.width.toNat then .next (t.decodeAt c (.flat (x + 1))) else .next (t.scanDone c false)

/-- RGBE_QUAD (R65, R69, R141): the next pixel of a flat scanline. -/
def execRgbeQuad (r g b e : Byte) (s : State) : Host.Outcome State Fault Refusal :=
  match s.decoding with
  | some ⟨c, .head⟩ => if s.decodable ⟨c, .head⟩ then pixelToken c 0 ⟨r, g, b, e⟩ s else .fault .decoderContext
  | some ⟨c, .flat x⟩ => if s.decodable ⟨c, .flat x⟩ then pixelToken c x ⟨r, g, b, e⟩ s else .fault .decoderContext
  | some ⟨_, .row _ _ _⟩ | none => .next s

/-- The state in which the first plane row of an RLE scanline is about to be decoded (R140, R141). -/
def State.beginRows (c : DecodeCommand) (s : State) : State :=
  match s.destinations s.ycnt.toNat with
  | d :: ds => s.decodeAt c (.row d 0 ds)
  | [] => s

/-- SCAN_MARKER (R67, R139): at the head of a scanline, with `h*256 + l = WIDTH`, the scanline is RLE; otherwise the four
bytes are its first flat quad (R75). -/
def execScanMarker (h l : Byte) (s : State) : Host.Outcome State Fault Refusal :=
  match s.decoding with
  | some ⟨c, .head⟩ =>
    if s.decodable ⟨c, .head⟩ then
      if h.toNat * 256 + l.toNat = s.width.toNat then .next (s.beginRows c)
      else pixelToken c 0 ⟨2#8, 2#8, h, l⟩ s
    else .fault .decoderContext
  | some ⟨_, .flat _⟩ | some ⟨_, .row _ _ _⟩ | none => .next s

end Sys2Proof.Machine
end

