-- ==== Sys2Proof/Machine/Dispatch.lean ====
section
/-! DEFINITION. The one match from an instruction to its meaning. -/

namespace Sys2Proof.Machine

def exec (i : Instr) (s : State) : Host.Outcome State Fault Refusal :=
  match i with
  | .nop => Sys2Proof.Machine.execNop s
  | .f2rgbe => Sys2Proof.Machine.execF2rgbe s
  | .rgbe2f => Sys2Proof.Machine.execRgbe2f s
  | .f2re => Sys2Proof.Machine.execF2re s
  | .re2f => Sys2Proof.Machine.execRe2f s
  | .plnClr => Sys2Proof.Machine.execPlnClr s
  | .insRgbe => Sys2Proof.Machine.execInsRgbe s
  | .insRe => Sys2Proof.Machine.execInsRe s
  | .img2pln => Sys2Proof.Machine.execImg2pln s
  | .pln2img => Sys2Proof.Machine.execPln2img s
  | .hdrWr => Sys2Proof.Machine.execHdrWr s
  | .hdrRd => Sys2Proof.Machine.execHdrRd s
  | .rleEnc k => Sys2Proof.Machine.execRleEnc k s
  | .encScan => Sys2Proof.Machine.execEncScan s
  | .encImage => Sys2Proof.Machine.execEncImage s
  | .rleDec k => Sys2Proof.Machine.execRleDec k s
  | .decScan => Sys2Proof.Machine.execDecScan s
  | .decImage => Sys2Proof.Machine.execDecImage s
  | .srst => Sys2Proof.Machine.execSrst s
  | .rleZero => Sys2Proof.Machine.execRleZero s
  | .rleDump n => Sys2Proof.Machine.execRleDump n s
  | .rleDump128 => Sys2Proof.Machine.execRleDump128 s
  | .rleRepeat1 => Sys2Proof.Machine.execRleRepeat1 s
  | .rleRepeat n => Sys2Proof.Machine.execRleRepeat n s
  | .scanMarker h l => Sys2Proof.Machine.execScanMarker h l s
  | .rgbeQuad r g b e => Sys2Proof.Machine.execRgbeQuad r g b e s

end Sys2Proof.Machine
end

