-- ==== Sys2Proof/Machine/HostPort.lean ====
section
/-! DEFINITION. The host's side (R150, R153 to R155, R180): the register port, the memory port, the write to `CMD`, the
hard reset; and the decoder's token fetch (R46, R136, R139). -/

namespace Sys2Proof.Machine

/-- The index of `CMD` (R27). -/
def cmdIndex : Nat := 0x0E

/-- `HostRead(idx)` (R153, R27): the register's value; 0 for `CMD` and for an index that names no register. -/
def State.readReg (idx : Nat) (s : State) : Word :=
  match idx with
  | 0x00 => s.f0
  | 0x01 => s.f1
  | 0x02 => s.f2
  | 0x03 => s.q
  | 0x04 => s.width
  | 0x05 => s.height
  | 0x06 => s.mode &&& 1#32
  | 0x07 => s.px
  | 0x08 => s.py
  | 0x09 => s.ycnt
  | 0x0A => s.spos
  | 0x0B => s.slen
  | 0x0C => s.statusWord
  | 0x0D => s.ecmd
  | _ => 0#32

/-- `min(v, STR_BYTES)` (R19, R153). -/
def State.clampToStream (v : Word) (s : State) : Word := if v.toNat ≤ s.cfg.strBytes.toNat then v else s.cfg.strBytes

/-- `HostWrite(idx, v)` for every index but `CMD` (R153, R17, R19, R24, R25). -/
def State.writeReg (idx : Nat) (v : Word) (s : State) : State :=
  match idx with
  | 0x00 => { s with f0 := v }
  | 0x01 => { s with f1 := v }
  | 0x02 => { s with f2 := v }
  | 0x03 => { s with q := v }
  | 0x04 => { s with width := v }
  | 0x05 => { s with height := v }
  | 0x06 => { s with mode := v &&& 1#32 }
  | 0x07 => { s with px := v }
  | 0x08 => { s with py := v }
  | 0x09 => { s with ycnt := v }
  | 0x0A => { s with spos := s.clampToStream v }
  | 0x0B => { s with slen := s.clampToStream v }
  | _ => s

/-- `HostMemRead(S, a)` (R154): the cell, a byte zero-extended; 0 at or above the capacity. -/
def State.readMem (space : Space) (a : Nat) (s : State) : Word :=
  match space with
  | .img => if a < s.cfg.imgWords then s.readImg a else 0#32
  | .pln => if a < s.cfg.plnBytes then (s.readPln a).setWidth 32 else 0#32
  | .str => if a < s.cfg.strBytes.toNat then (s.readStr a).setWidth 32 else 0#32

/-- `Execute(w)` (R150). The meaning of the decoded command looks at `BUSY` and `ERR` itself (`command`); an illegal word
raises ConfigFault in the same frame (R63, R165, R166 (a)). -/
def execute (w : Word) (s : State) : Host.Outcome State Fault Refusal :=
  match decode (.command w) with
  | .ok i => exec i s
  | .error _ => command w (raise .configFault) s

/-- A hard reset (R180, R31): registers at their reset values, memories unspecified anew, the block idle. The parameters,
and what belongs to the host, stay (log 10). -/
def State.hardReset (s : State) : State :=
  { State.resetWith s.cfg (s.powerOns + 1) s.program with pc := s.pc, readData := s.readData }

/-- One host action (R153, R154, R180). -/
def perform (a : HostAction) (s : State) : Host.Outcome State Fault Refusal :=
  match a with
  | .writeReg idx v => if idx = cmdIndex then execute v s else .next (s.writeReg idx v)
  | .readReg idx => .next { s with readData := s.readReg idx }
  | .writeImg a v => .next (if a < s.cfg.imgWords then s.writeImg a v else s)
  | .writePln a v => .next (if a < s.cfg.plnBytes then s.writePln a v else s)
  | .writeStr a v => .next (if a < s.cfg.strBytes.toNat then s.writeStr a v else s)
  | .readMem space a => .next { s with readData := s.readMem space a }
  | .hardReset => .next s.hardReset

/-- Between commands (R28, R183): the host's next action, the index advanced by one; nothing when the program is over. -/
def hostStep (s : State) : Host.Outcome State Fault Refusal :=
  match s.program[s.pc]? with
  | some a => perform a { s with pc := s.pc + 1 }
  | none => .next s

/-- The next four stream bytes as one number, the first in bits 31:24. -/
def getFour : Op Word := do
  let a ← getByte .truncatedData
  let b ← getByte .truncatedData
  let c ← getByte .truncatedData
  let d ← getByte .truncatedData
  pure (a ++ b ++ c ++ d)

/-- Run the instruction that the decoder reads as `code`. -/
def execCode (code : Code) (s : State) : Host.Outcome State Fault Refusal :=
  match decode code with
  | .ok i => exec i s
  | .error _ => .next s

/-- A four-byte unit in command `c`: a whole quad or marker, or, when the stream ends inside it, what the pseudocode
stores before TruncatedData (R141). -/
def quadStep (c : DecodeCommand) (x : Nat) (code : Word → Code) (s : State) : Host.Outcome State Fault Refusal :=
  if s.spos.toNat + 4 ≤ s.slen.toNat then
    match getFour s with
    | .ok w t => execCode (code w) t
    | .error f t => .next (t.enterFault f c.word)
  else settle c.word (flatPixel x (s.destinations s.ycnt.toNat) s)

/-- A decode command in progress: fetch the next stream token at `SPOS` and run it (R136, R139, R141; log 5). -/
def decodeStep (d : Decoding) (s : State) : Host.Outcome State Fault Refusal :=
  if s.decodable d then
    match d.phase with
    | .row _ _ _ =>
      match getByte .truncatedData s with
      | .ok c t => execCode (.control c) t
      | .error f t => .next (t.enterFault f d.command.word)
    | .head => quadStep d.command 0 .head s
    | .flat x => quadStep d.command x .pixel s
  else .fault .decoderContext

/-- The host's program with action `a` at its index (R28); a program that ended before it is filled up with reads of the
index 0x0F, which names no register. -/
def State.insertAction (a : HostAction) (s : State) : List HostAction :=
  s.program.take s.pc ++ List.replicate (s.pc - s.program.length) (.readReg 0x0F) ++ a :: s.program.drop s.pc

/-- Bytes at consecutive cells of `STR`. -/
def State.storeBytes : Nat → List Byte → State → State
  | _, [], s => s
  | a, b :: bs, s => State.storeBytes (a + 1) bs (s.writeStr a b)

/-- The cursor where `n` bytes find room: `SPOS`, or 0 when they would pass the capacity. -/
def State.placeCursor (n : Nat) (s : State) : State :=
  if s.spos.toNat + n ≤ s.cfg.strBytes.toNat then s else { s with spos := 0#32 }

/-- `bs` in `STR` at the cursor, inside the stream. -/
def State.placeBytes (bs : List Byte) (s : State) : State :=
  let t := s.placeCursor bs.length
  { t.storeBytes t.spos.toNat bs with
    slen := if t.slen.toNat < t.spos.toNat + bs.length then t.spos + BitVec.ofNat 32 bs.length else t.slen }

/-- A geometry in which one row of `w` pixels can be decoded: the current one where it serves and `keep` holds, otherwise
`w` by 1 with `YCNT = 0`. -/
def State.placeGeometry (keep : Bool) (w : Nat) (s : State) : State :=
  if keep && s.geomFits s.planes false && decide (s.ycnt.toNat < s.height.toNat) then s
  else { s with width := BitVec.ofNat 32 w, height := 1#32, ycnt := 0#32 }

/-- The machine with no fault and no command in progress. -/
def State.ready (s : State) : State := { s.setErr 0#4 with decoding := none }

/-- A control byte at the cursor and 128 zero bytes behind it, in plane row `YCNT` of plane 0, as RLE_DEC 0 would meet
it. -/
def State.placeControl (c : Byte) (s : State) : State :=
  let t := (s.ready.placeGeometry true 128).placeBytes (c :: List.replicate 128 0#8)
  t.decodeAt (.rleDec 0#2) (.row (some (t.rowBase 0 t.ycnt.toNat)) 0 [])

/-- The width a marker names (R67), if a row of it fits `PLN`; otherwise 1. -/
def State.headWidth (w : Word) (s : State) : Nat :=
  let n := (w.extractLsb' 0 16).toNat
  if w.extractLsb' 16 16 = 0x0202#16 ∧ n ≠ 0 ∧ s.planes * n ≤ s.cfg.plnBytes then n else 1

/-- Four stream bytes at the cursor, at the head of scanline `YCNT`, as DEC_SCAN would meet them. -/
def State.placeHead (w : Word) (s : State) : State :=
  let n := s.headWidth w
  let keep := decide (w.extractLsb' 16 16 ≠ 0x0202#16) || s.width.toNat == n
  let t := (s.ready.placeGeometry keep n).placeBytes
    [w.extractLsb' 24 8, w.extractLsb' 16 8, w.extractLsb' 8 8, w.extractLsb' 0 8]
  t.decodeAt .decScan .head

/-- A command word as the host's next action: the write to `CMD` (R26). -/
def State.placeCommand (w : Word) (s : State) : State :=
  { s with program := s.insertAction (.writeReg cmdIndex w), decoding := none }

/-- `s` with the opcode-table word `w` of `nbits` bits where the next step fetches it (log 11). -/
def State.placeTableWord (nbits w : Nat) (s : State) : State :=
  if nbits = 8 then s.placeControl (BitVec.ofNat 8 w)
  else
    match decodeCommand (BitVec.ofNat 32 w) with
    | .ok _ => s.placeCommand (BitVec.ofNat 32 w)
    | .error _ => s.placeHead (BitVec.ofNat 32 w)

end Sys2Proof.Machine
end

