-- ==== Sys2Proof/Machine/Step.lean ====
section
/-! DEFINITION. One step: the host's next action, or, inside a decode command, its next stream token. -/

namespace Sys2Proof.Machine

/-- One step of the machine. Between commands, where every run from reset stays (R7, R24), it is one host action, and a
write to `CMD` runs its command whole (R150). -/
def step (s : State) : Host.Outcome State Fault Refusal :=
  match s.decoding with
  | none => hostStep s
  | some d => decodeStep d s

/-- The host's placing of one opcode-table word where the next step fetches it (log 11). -/
def State.withFetchWord (s : State) (nbits w : Nat) : State := s.placeTableWord nbits w

end Sys2Proof.Machine
end

