-- ==== Sys2Proof/Safety.lean ====
section
/-! DEFINITION. What a run and a state are held to: a machine ready for a command, a run that ended well (R183), and the
invariants that every step between commands keeps. -/

namespace Sys2Proof.Machine

/-- No command is executing and no fault is latched: the next command runs (R150). -/
def State.Ready (s : State) : Prop := s.decoding = none ∧ s.err = 0#4

/-- "The run ended well if `STATUS.ERR = 0` at the end" (R183): the host's list is exhausted, no fault is latched. -/
def State.EndedWell (s : State) : Prop := s.program.length ≤ s.pc ∧ s.Ready

/-- What every step between commands keeps. -/
structure State.Inv (s : State) : Prop where
  /-- the memories are in canonical form -/
  imgWf : Memory.wf s.img = true
  plnWf : Memory.wf s.pln = true
  strWf : Memory.wf s.str = true
  /-- `MODE[31:1]` are hardwired zero (R17) -/
  modeBits : s.mode.toNat ≤ 1
  /-- `STATUS[31:6]` are hardwired zero and `BUSY` is not set between commands (R24) -/
  statusBits : s.status.toNat < 32
  /-- the codes 6..15 are never written (R160) -/
  errCode : s.err.toNat ≤ 5
  /-- `SPOS <= STR_BYTES` and `SLEN <= STR_BYTES` always hold (R19) -/
  sposBound : s.spos.toNat ≤ s.cfg.strBytes.toNat
  slenBound : s.slen.toNat ≤ s.cfg.strBytes.toNat
  /-- a command is atomic: none is half done (R7) -/
  notBusy : s.decoding = none
  /-- `ECMD` is the word of the latched fault, and 0 when none is latched (R25, R167, R152) -/
  ecmdLatched : s.err = 0#4 ↔ s.ecmd = 0#32

/-- Every cell the machine holds exists (R20, R45, R154). -/
structure State.CellsInside (s : State) : Prop where
  img : Memory.below s.cfg.imgWords s.img = true
  pln : Memory.below s.cfg.plnBytes s.pln = true
  str : Memory.below s.cfg.strBytes.toNat s.str = true

end Sys2Proof.Machine
end

