-- ==== Sys2Proof/Certificates/Slice0/Obligations.lean ====
section
/-! DEFINITION. The statements for the provers, and the spec-side vocabulary they are written in. -/

namespace Sys2Proof.Spec

open Sys2Proof.Machine

/-! ### Real values (R81) -/

/-- `x = w[30:23]`, from the number `w` denotes. -/
def expOf (w : Word) : Nat := w.toNat / 2 ^ 23 % 256

/-- `f = w[22:0]`. -/
def fracOf (w : Word) : Nat := w.toNat % 2 ^ 23

/-- `s = w[31]`. -/
def signOf (w : Word) : Nat := w.toNat / 2 ^ 31

/-- A zero, subnormal or normal pattern (R81). -/
def isFinite (w : Word) : Prop := expOf w ≤ 254

/-- A NaN pattern (R81). -/
def isNan (w : Word) : Prop := expOf w = 255 ∧ fracOf w ≠ 0

/-- `real(w)` of a finite pattern (R81). -/
def real (w : Word) : ℚ :=
  (-1) ^ signOf w *
    (if expOf w = 0 then (fracOf w : ℚ) * 2 ^ (-149 : ℤ)
     else ((2 ^ 23 + fracOf w : Nat) : ℚ) * 2 ^ ((expOf w : ℤ) - 150))

/-- The largest of three real values (R83). -/
def maxReal (w0 w1 w2 : Word) : ℚ := max (real w0) (max (real w1) (real w2))

/-- `canon(w)` (R82). -/
def Canon (w v : Word) : Prop :=
  (isNan w → v = 0#32) ∧ (w = 0x7F800000#32 → v = 0x7F7FFFFF#32) ∧ (¬ isNan w → w ≠ 0x7F800000#32 → v = w)

/-- One mantissa of R86's bit-level form. -/
def mantissaR86 (xmax : Nat) (w : Word) : Byte :=
  if signOf w = 1 ∨ expOf w = 0 ∨ 7 < (xmax : ℤ) - expOf w then 0#8
  else BitVec.ofNat 8 ((0x800000 + fracOf w) / 2 ^ (16 + (xmax - expOf w)))

/-- `key_i` of R86. -/
def keyR86 (w : Word) : ℤ := if signOf w = 1 then -1 else (w.toNat : ℤ)

/-- `FloatToRgbe` in R86's bit-level form, on canonicalised patterns, for the default modes: `r ++ g ++ b ++ e`. -/
def packR86 (w0 w1 w2 : Word) : Word :=
  let k := max (keyR86 w0) (max (keyR86 w1) (keyR86 w2))
  if k < 0x0A4FB11F then 0#32
  else
    let xmax := k.toNat / 2 ^ 23
    mantissaR86 xmax w0 ++ mantissaR86 xmax w1 ++ mantissaR86 xmax w2 ++ BitVec.ofNat 8 ((xmax + 2) % 256)

/-- The modes of R4's defaults. -/
def DefaultModes (c : Config) : Prop := c.negMode = .clamp0 ∧ c.ovfMode = .wrap ∧ c.nonFinite = .canon

/-! ### Commands and words -/

/-- One row of the opcode map (R61): `match`, `mask`, and the command, given `k = word[1:0]`. -/
structure OpcodeRow where
  pattern : Word
  mask : Word
  command : BitVec 2 → Instr

/-- The opcode map, row by row (R61). -/
def opcodeRows : List OpcodeRow :=
  [⟨0x00000000#32, 0xFFFFFFFF#32, fun _ => .nop⟩, ⟨0x01000000#32, 0xFFFFFFFF#32, fun _ => .f2rgbe⟩,
   ⟨0x02000000#32, 0xFFFFFFFF#32, fun _ => .rgbe2f⟩, ⟨0x03000000#32, 0xFFFFFFFF#32, fun _ => .f2re⟩,
   ⟨0x04000000#32, 0xFFFFFFFF#32, fun _ => .re2f⟩, ⟨0x10000000#32, 0xFFFFFFFF#32, fun _ => .plnClr⟩,
   ⟨0x11000000#32, 0xFFFFFFFF#32, fun _ => .insRgbe⟩, ⟨0x12000000#32, 0xFFFFFFFF#32, fun _ => .insRe⟩,
   ⟨0x13000000#32, 0xFFFFFFFF#32, fun _ => .img2pln⟩, ⟨0x14000000#32, 0xFFFFFFFF#32, fun _ => .pln2img⟩]
  ++ [⟨0x20000000#32, 0xFFFFFFFF#32, fun _ => .hdrWr⟩, ⟨0x21000000#32, 0xFFFFFFFF#32, fun _ => .hdrRd⟩,
   ⟨0x30000000#32, 0xFFFFFFFC#32, .rleEnc⟩, ⟨0x31000000#32, 0xFFFFFFFF#32, fun _ => .encScan⟩,
   ⟨0x32000000#32, 0xFFFFFFFF#32, fun _ => .encImage⟩, ⟨0x40000000#32, 0xFFFFFFFC#32, .rleDec⟩,
   ⟨0x41000000#32, 0xFFFFFFFF#32, fun _ => .decScan⟩, ⟨0x42000000#32, 0xFFFFFFFF#32, fun _ => .decImage⟩,
   ⟨0xFF000000#32, 0xFFFFFFFF#32, fun _ => .srst⟩]

/-- The word matches a row of the opcode map (R61). -/
def MatchesRow (w : Word) : Prop := ∃ r ∈ opcodeRows, w &&& r.mask = r.pattern

/-- The 19 commands (R61). -/
def isCommand : Instr → Bool
  | .nop | .f2rgbe | .rgbe2f | .f2re | .re2f | .plnClr | .insRgbe | .insRe | .img2pln | .pln2img | .hdrWr | .hdrRd
  | .rleEnc _ | .encScan | .encImage | .rleDec _ | .decScan | .decImage | .srst => true
  | .rleZero | .rleDump _ | .rleDump128 | .rleRepeat1 | .rleRepeat _ | .scanMarker _ _ | .rgbeQuad _ _ _ _ => false

/-- `CheckGeom(planes, useImg)` passes, written out from R166. -/
def GeomFits (planes : Nat) (useImg : Bool) (s : State) : Prop :=
  s.width ≠ 0#32 ∧ s.height ≠ 0#32 ∧ planes * (s.width.toNat * s.height.toNat) ≤ s.cfg.plnBytes ∧
    (useImg = true → s.width.toNat * s.height.toNat * s.channels ≤ s.cfg.imgWords)

/-- Command `i` raises ConfigFault and does nothing else (R166, R167). -/
def ConfigFaults (i : Instr) (s : State) : Prop :=
  exec i s = .next { s with status := (s.setErr 5#4).status, ecmd := i.word }

/-- The fault kinds an instruction can raise: for the commands R176's table, for the stream tokens the model's choice of
log 5. -/
def mayRaise : Instr → FaultCode → Bool
  | .nop, _ | .srst, _ | .f2rgbe, _ | .rgbe2f, _ | .f2re, _ | .re2f, _ => false
  | .plnClr, f | .insRgbe, f | .insRe, f | .img2pln, f | .pln2img, f => f == .configFault
  | .hdrWr, f => f == .configFault || f == .ioError
  | .hdrRd, f => f == .malformedHeader
  | .rleEnc _, f | .encScan, f | .encImage, f => f == .configFault || f == .ioError
  | .rleDec _, f | .decScan, f => f == .configFault || f == .truncatedData || f == .formatFault
  | .decImage, f => f == .configFault || f == .malformedHeader || f == .truncatedData || f == .formatFault
  | .rleZero, f | .rleDump _, f | .rleDump128, f | .rleRepeat1, f | .rleRepeat _, f =>
    f == .formatFault || f == .truncatedData
  | .scanMarker _ _, _ | .rgbeQuad _ _ _ _, _ => false

/-- `STATUS` and `ECMD` are as before, or a fault of command word `w` was taken (R167): the code in `ERR`, `w` in `ECMD`,
the other bits of `STATUS` as before. -/
def FaultOnly (w : Word) (s t : State) : Prop :=
  (t.status = s.status ∧ t.ecmd = s.ecmd) ∨ (∃ f : FaultCode, t.status = (s.setErr f.code).status ∧ t.ecmd = w)

/-- The same after `STRAT` may have been written (R24). -/
def ScanFaultOnly (w : Word) (s t : State) : Prop :=
  FaultOnly w s t ∨ ∃ b : Bool, FaultOnly w (s.setStrat b) t

/-! ### The stream -/

/-- The stream holds `bs` at address `a` (R23). -/
def HoldsAt (s : State) (a : Nat) (bs : List Byte) : Prop :=
  ∀ (i : Nat) (h : i < bs.length), s.readStr (a + i) = bs[i]

/-- The stream holds `bs` at the cursor, before its end (R46). -/
def Next (s : State) (bs : List Byte) : Prop :=
  HoldsAt s s.spos.toNat bs ∧ s.spos.toNat + bs.length ≤ s.slen.toNat

/-- What the stream still holds at the cursor is exactly `bs`, and it ends there: nothing when `SPOS >= SLEN` (R19, R46). -/
def Rest (s : State) (bs : List Byte) : Prop :=
  HoldsAt s s.spos.toNat bs ∧ bs.length = s.slen.toNat - s.spos.toNat

/-- The stream at a reader that raises `f` after reading `bs`: for TruncatedData it ends there, otherwise it may go on. -/
def HoldsUpTo (f : FaultCode) (s : State) (bs : List Byte) : Prop :=
  if f = .truncatedData then Rest s bs else Next s bs

/-- `t` is `s` after `PutByte` of `bs` in order with room for all of them (R48): `STR`, `SPOS`, `SLEN` and nothing else. -/
def Appended (bs : List Byte) (s t : State) : Prop :=
  t = { s with
    str := t.str
    spos := s.spos + BitVec.ofNat 32 bs.length
    slen := if bs = [] ∨ s.spos.toNat + bs.length ≤ s.slen.toNat then s.slen else s.spos + BitVec.ofNat 32 bs.length } ∧
  ∀ a, t.readStr a =
    if s.spos.toNat ≤ a then (bs[a - s.spos.toNat]?).getD (s.readStr a) else s.readStr a

/-- Command `i` writes `bs` to the stream and ends as `finish` says; when `STR` is full before the last of them, the
earlier bytes are written and IoError is raised (R48, R163). -/
def Writes (i : Instr) (bs : List Byte) (finish : State → State) (s : State) : Prop :=
  if s.spos.toNat + bs.length ≤ s.cfg.strBytes.toNat then
    ∃ t, Appended bs s t ∧ exec i s = .next (finish t)
  else
    ∃ t, Appended (bs.take (s.cfg.strBytes.toNat - s.spos.toNat)) s t ∧ exec i s = .next (t.enterFault .ioError i.word)

/-- ASCII text as bytes. -/
def ascii (cs : List Char) : List Byte := cs.map fun c => BitVec.ofNat 8 c.toNat

/-- `Dec(n)` (R102). -/
def dec (n : Nat) : List Byte := (Nat.digits 10 n).reverse.map fun d => BitVec.ofNat 8 (0x30 + d)

/-- The header's bytes (R70). -/
def headerBytes (height width : Nat) : List Byte :=
  ascii ['#', '?', 'R', 'G', 'B', 'E', '\n']
    ++ ascii ['F', 'O', 'R', 'M', 'A', 'T', '=', '3', '2', '-', 'b', 'i', 't', '_', 'r', 'l', 'e', '_', 'r', 'g', 'b', 'e', '\n']
    ++ ascii ['\n'] ++ ascii ['-', 'Y', ' '] ++ dec height ++ ascii [' ', '+', 'X', ' '] ++ dec width ++ ascii ['\n']

/-- A header line (R104): it holds no 0x0A. -/
def IsLine (l : List Byte) : Prop := 0x0A#8 ∉ l

/-- The magic line (R103). -/
def magicLine : List Byte := ascii ['#', '?', 'R', 'G', 'B', 'E']

/-- The format line (R103). -/
def formatLine : List Byte :=
  ascii ['F', 'O', 'R', 'M', 'A', 'T', '=', '3', '2', '-', 'b', 'i', 't', '_', 'r', 'l', 'e', '_', 'r', 'g', 'b', 'e']

/-- A line that begins with `-Y ` (R103). -/
def IsDimensionLine (l : List Byte) : Prop := l.take 3 = ascii ['-', 'Y', ' ']

/-- Lines as the stream holds them, each ended by 0x0A (R104). -/
def lineBytes (ls : List (List Byte)) : List Byte := ls.flatMap fun l => l ++ [0x0A#8]

/-- One or more ASCII digits with base-ten value `n`, leading zeros allowed (R105). -/
def IsNumeral (ds : List Byte) (n : Nat) : Prop :=
  ds ≠ [] ∧ (∀ d ∈ ds, 0x30 ≤ d.toNat ∧ d.toNat ≤ 0x39) ∧ n = ds.foldl (fun v d => v * 10 + (d.toNat - 0x30)) 0

/-- A dimension line as R105 accepts it: height `h`, width `w`. -/
def Dimensions (l : List Byte) (h w : Nat) : Prop :=
  ∃ d1 d2, l = ascii ['-', 'Y', ' '] ++ d1 ++ ascii [' ', '+', 'X', ' '] ++ d2 ∧ IsNumeral d1 h ∧ IsNumeral d2 w ∧
    1 ≤ h ∧ h ≤ 4294967295 ∧ 1 ≤ w ∧ w ≤ 4294967295

/-- The bytes of a header HDR_RD accepts, with height `h` and width `w` (R103 to R105). -/
def IsHeader (bs : List Byte) (h w : Nat) : Prop :=
  ∃ ls dim, (∀ l ∈ ls, IsLine l ∧ ¬ IsDimensionLine l) ∧ formatLine ∈ ls ∧ Dimensions dim h w ∧
    bs = lineBytes (magicLine :: ls ++ [dim])

/-- The header reader of `s` gives up after reading the bytes (R161). -/
inductive MalformedAfter (s : State) : List Byte → Prop where
  /-- the first line is not the magic -/
  | notMagic (l : List Byte) : IsLine l → l ≠ magicLine → Next s (lineBytes [l]) → MalformedAfter s (lineBytes [l])
  /-- a line that begins `-Y ` before any format line, or that is no dimension line -/
  | badDimension (ls : List (List Byte)) (dim : List Byte) : (∀ l ∈ ls, IsLine l ∧ ¬ IsDimensionLine l) → IsLine dim →
      IsDimensionLine dim → (formatLine ∉ ls ∨ ∀ h w, ¬ Dimensions dim h w) →
      Next s (lineBytes (magicLine :: ls ++ [dim])) → MalformedAfter s (lineBytes (magicLine :: ls ++ [dim]))
  /-- the stream ends inside the first line -/
  | endsFirst (l : List Byte) : IsLine l → Rest s l → MalformedAfter s l
  /-- the stream ends inside a later line, before any dimension line -/
  | endsLater (ls : List (List Byte)) (l : List Byte) : (∀ x ∈ ls, IsLine x ∧ ¬ IsDimensionLine x) → IsLine l →
      Rest s (lineBytes (magicLine :: ls) ++ l) → MalformedAfter s (lineBytes (magicLine :: ls) ++ l)

/-! ### Runs and scanlines -/

/-- One RLE run (R66): a dump of literals or a repeat of a value. -/
inductive Run where
  | dump (bs : List Byte)
  | rep (n : Nat) (v : Byte)

/-- The bytes of a run in the stream (R66). -/
def Run.bytes : Run → List Byte
  | .dump bs => BitVec.ofNat 8 bs.length :: bs
  | .rep n v => [BitVec.ofNat 8 (128 + n), v]

/-- The bytes of the plane row a run stands for (R66). -/
def Run.row : Run → List Byte
  | .dump bs => bs
  | .rep n v => List.replicate n v

/-- The runs the decoder accepts (R66 "Accepted by decoder"). -/
def Run.Readable : Run → Prop
  | .dump bs => 1 ≤ bs.length ∧ bs.length ≤ 128
  | .rep n _ => 1 ≤ n ∧ n ≤ 127

/-- How greedy runs follow each other (R121): a repeat shorter than 127 ends where the value changes; a dump ends before
the first byte that equals its successor, and only a dump of 127 is followed by a dump. -/
def Run.Follows : Run → Run → Prop
  | .rep n v, r => n = 127 ∨ r.row.head? ≠ some v
  | .dump bs, .dump cs => bs.length = 127 ∧ bs.getLast? ≠ cs.head?
  | .dump bs, .rep _ v => bs.getLast? ≠ some v

/-- The runs the encoder writes (R66 "Written by encoder"); in a dump every byte differs from the one after it (R121). -/
def Run.Written : Run → Prop
  | .dump bs => 1 ≤ bs.length ∧ bs.length ≤ 127 ∧ bs.IsChain (· ≠ ·)
  | .rep n _ => 2 ≤ n ∧ n ≤ 127

/-- The stream bytes of a run sequence. -/
def runBytes (rs : List Run) : List Byte := rs.flatMap Run.bytes

/-- The plane row a run sequence stands for. -/
def runRow (rs : List Run) : List Byte := rs.flatMap Run.row

/-- Readable runs that fill a plane row of `w` bytes (R136). -/
def Fills (w : Nat) (rs : List Run) : Prop := (∀ r ∈ rs, r.Readable) ∧ (runRow rs).length = w

/-- How `RleDecodeRow` stops where `left` bytes of the row are missing (R136, R165): the fault, the stream bytes read since
the last whole run, and those of them stored as literals. -/
inductive RowStop (left : Nat) : FaultCode → List Byte → List Byte → Prop where
  | controlZero : RowStop left .formatFault [0#8] []
  | overlong (c : Byte) : left < (if 129 ≤ c.toNat then c.toNat - 128 else c.toNat) → RowStop left .formatFault [c] []
  | atControl : RowStop left .truncatedData [] []
  | atValue (c : Byte) : 129 ≤ c.toNat → c.toNat - 128 ≤ left → RowStop left .truncatedData [c] []
  | inDump (c : Byte) (bs : List Byte) : bs.length < c.toNat → c.toNat ≤ 128 → c.toNat ≤ left →
      RowStop left .truncatedData (c :: bs) bs

/-- Plane row `y` of plane `k` (R22). -/
def planeRow (s : State) (k y : Nat) : List Byte :=
  (List.range s.width.toNat).map fun x => s.readPln (k * (s.width.toNat * s.height.toNat) + y * s.width.toNat + x)

/-- The planes one scanline is written from (R125, R126): R, G, B, E or R, R, R, E. -/
def streamPlanes (s : State) : List Nat := if s.rgb then [0, 1, 2, 3] else [0, 0, 0, 1]

/-- The strategy (R124). -/
def rleWidth (w : Nat) : Bool := decide (8 ≤ w ∧ w ≤ 32767)

/-- The marker for width `w` (R67). -/
def marker (w : Nat) : List Byte := [2#8, 2#8, BitVec.ofNat 8 (w / 256), BitVec.ofNat 8 (w % 256)]

/-- The bytes ENC_SCAN writes for scanline `y` (R125, R126). -/
def scanBytes (s : State) (y : Nat) : List Byte :=
  if rleWidth s.width.toNat then
    marker s.width.toNat ++ (streamPlanes s).flatMap fun k => rleEncodeRow (planeRow s k y)
  else
    (List.range s.width.toNat).flatMap fun x => (streamPlanes s).map fun k =>
      s.readPln (k * (s.width.toNat * s.height.toNat) + y * s.width.toNat + x)

/-- A scanline of a stream in either form (R68, R69). -/
inductive Scan where
  | rle (r g b e : List Run)
  | flat (qs : List Quad)

/-- The bytes of a scanline of width `w` (R68, R69). -/
def Scan.bytes (w : Nat) : Scan → List Byte
  | .rle r g b e => marker w ++ runBytes r ++ runBytes g ++ runBytes b ++ runBytes e
  | .flat qs => qs.flatMap fun q => [q.r, q.g, q.b, q.e]

/-- Plane `j` of a scanline: 0 R, 1 G, 2 B, 3 E. -/
def Scan.plane : Scan → Nat → List Byte
  | .rle r _ _ _, 0 => runRow r
  | .rle _ g _ _, 1 => runRow g
  | .rle _ _ b _, 2 => runRow b
  | .rle _ _ _ e, _ => runRow e
  | .flat qs, 0 => qs.map Quad.r
  | .flat qs, 1 => qs.map Quad.g
  | .flat qs, 2 => qs.map Quad.b
  | .flat qs, _ => qs.map Quad.e

/-- The scanline is RLE, as `STRAT` records it (R24). -/
def Scan.isRle : Scan → Bool
  | .rle _ _ _ _ => true
  | .flat _ => false

/-- A scanline the decoder reads as what it is at width `w` (R136, R139, R141): runs that fill each plane row exactly, or
`w` quads that do not begin with the marker for `w` (R72 (d)). -/
def Scan.Readable (w : Nat) : Scan → Prop
  | .rle r g b e => w ≤ 65535 ∧ ∀ rs ∈ [r, g, b, e], Fills w rs
  | .flat qs => qs.length = w ∧ ∀ q ∈ qs.head?, ¬ (q.r = 2#8 ∧ q.g = 2#8 ∧ q.b.toNat * 256 + q.e.toNat = w)

/-- How the decoding of a scanline of width `w` stops (R136, R139, R141): the fault, the stream bytes read, and the byte
that each stream plane has got at each place of its row. -/
inductive ScanStop (w : Nat) : FaultCode → List Byte → (Nat → Nat → Option Byte) → Prop where
  /-- a flat scanline breaks off: whole quads and a part of one -/
  | flat (bs : List Byte) : bs.length < 4 * w → (∀ h l, bs.take 4 = [2#8, 2#8, h, l] → h.toNat * 256 + l.toNat ≠ w) →
      ScanStop w .truncatedData bs fun j x => bs[4 * x + j]?
  /-- an RLE scanline stops in the plane row after `rows`, with the runs `rs` of it read -/
  | rle (rows : List (List Run)) (rs : List Run) (f : FaultCode) (tail lits : List Byte) : w ≤ 65535 → rows.length < 4 →
      (∀ r ∈ rows, Fills w r) → (∀ r ∈ rs, r.Readable) → (runRow rs).length < w →
      RowStop (w - (runRow rs).length) f tail lits →
      ScanStop w f (marker w ++ rows.flatMap runBytes ++ runBytes rs ++ tail) fun j x =>
        ((rows.map runRow ++ [runRow rs ++ lits])[j]?).bind fun row => row[x]?

/-- The stream planes the image keeps, in plane-buffer order (R140): all four, or R and E. -/
def keptPlanes (s : State) : List Nat := if s.rgb then [0, 1, 2, 3] else [0, 3]

/-- `PLN` of `t`: plane `k` of scanline `y` is what `sc` holds for it, for every plane the mode keeps (R140). -/
def RowsStored (sc : Scan) (y : Nat) (t : State) : Prop :=
  ∀ (k j x : Nat), (keptPlanes t)[k]? = some j → x < t.width.toNat →
    some (t.readPln (k * (t.width.toNat * t.height.toNat) + y * t.width.toNat + x)) = (sc.plane j)[x]?

/-- An address of `PLN` inside row `y` of a plane of the current mode (R22). -/
def InRow (s : State) (y a : Nat) : Prop :=
  ∃ k x, k < s.planes ∧ x < s.width.toNat ∧ a = k * (s.width.toNat * s.height.toNat) + y * s.width.toNat + x

/-- `PLN` of `t` at place `x` of the kept planes of row `y`: the byte that `got` has for it, or what `s` held (R140,
R141). -/
def RowGot (got : Nat → Nat → Option Byte) (y : Nat) (s t : State) : Prop :=
  ∀ (k j x : Nat), (keptPlanes s)[k]? = some j → x < s.width.toNat →
    let a := k * (s.width.toNat * s.height.toNat) + y * s.width.toNat + x
    t.readPln a = (got j x).getD (s.readPln a)

/-- The bytes of the one pixel `x`, as far as they have been read. -/
def pixelGot (x : Nat) (bs : List Byte) (j x' : Nat) : Option Byte := if x' = x then bs[j]? else none

/-- The quad of pixel `p` in the planes of the current mode (R22). -/
def planeQuad (s : State) (p : Nat) : Quad :=
  let n := s.width.toNat * s.height.toNat
  if s.rgb then ⟨s.readPln p, s.readPln (n + p), s.readPln (2 * n + p), s.readPln (3 * n + p)⟩
  else ⟨s.readPln p, s.readPln p, s.readPln p, s.readPln (n + p)⟩

/-- `IMG` of `t` holds the floats of the quads of `PLN` in `t` (R115). -/
def ImageUnpacked (t : State) : Prop :=
  ∀ p, p < t.width.toNat * t.height.toNat →
    if t.rgb then
      t.readImg (3 * p) = channelToFloat (planeQuad t p).r (planeQuad t p).e ∧
      t.readImg (3 * p + 1) = channelToFloat (planeQuad t p).g (planeQuad t p).e ∧
      t.readImg (3 * p + 2) = channelToFloat (planeQuad t p).b (planeQuad t p).e
    else t.readImg p = channelToFloat (planeQuad t p).r (planeQuad t p).e

/-- Command `c` has completed scanline `YCNT` in the form `b` (R141, R142): RLE_DEC is over; DEC_SCAN sets `STRAT`, adds 1
to `YCNT` and is over; DEC_IMAGE does the same and goes on with the next scanline or, after the last, ends with the loop
of PLN2IMG. -/
def ScanlineEnds (c : DecodeCommand) (b : Bool) (s t : State) : Prop :=
  let v := { s with status := (s.setStrat b).status, ycnt := s.ycnt + 1#32 }
  match c with
  | .rleDec _ => t = { s with decoding := none }
  | .decScan => t = { v with decoding := none }
  | .decImage =>
    if s.ycnt.toNat + 1 < s.height.toNat then t = { v with decoding := some ⟨.decImage, .head⟩ }
    else t = { v with decoding := none, img := t.img } ∧ ImageUnpacked t ∧
      ∀ a, s.width.toNat * s.height.toNat * s.channels ≤ a → t.readImg a = s.readImg a

/-- After a run, with `done` bytes of the row produced (R136, R141): the row goes on, the next of `rest` begins, or the
scanline is complete. -/
def RowGoesOn (c : DecodeCommand) (dst : Option Nat) (done : Nat) (rest : List (Option Nat)) (s t : State) : Prop :=
  if done < s.width.toNat then t = { s with decoding := some ⟨c, .row dst done rest⟩ }
  else
    match rest with
    | d :: ds => t = { s with decoding := some ⟨c, .row d 0 ds⟩ }
    | [] => ScanlineEnds c true s t

/-- The quad `FloatToRgbe` makes of pixel `p` of `IMG` in the current mode (R114). -/
def imageQuad (s : State) (p : Nat) : Quad :=
  if s.rgb then floatToRgbe s.cfg (s.readImg (3 * p)) (s.readImg (3 * p + 1)) (s.readImg (3 * p + 2))
  else floatToRgbe s.cfg (s.readImg p) (s.readImg p) (s.readImg p)

/-- `PLN` of `t` holds the quads of `IMG` in `s` (R114). -/
def ImageQuantized (s t : State) : Prop :=
  ∀ p, p < s.width.toNat * s.height.toNat →
    let n := s.width.toNat * s.height.toNat
    t.readPln p = (imageQuad s p).r ∧
    if s.rgb then
      t.readPln (n + p) = (imageQuad s p).g ∧ t.readPln (2 * n + p) = (imageQuad s p).b ∧
      t.readPln (3 * n + p) = (imageQuad s p).e
    else t.readPln (n + p) = (imageQuad s p).e

/-- The registers a program sees are at the values R27 gives for reset. -/
def RegistersReset (s : State) : Prop :=
  s.f0 = 0#32 ∧ s.f1 = 0#32 ∧ s.f2 = 0#32 ∧ s.q = 0#32 ∧ s.width = 0#32 ∧ s.height = 0#32 ∧ s.mode = 0#32 ∧
    s.px = 0#32 ∧ s.py = 0#32 ∧ s.ycnt = 0#32 ∧ s.spos = 0#32 ∧ s.slen = 0#32 ∧ s.status = 0#32 ∧ s.ecmd = 0#32

/-- `n` steps of the machine, stopping at a stop. -/
def runSteps : Nat → State → Host.Outcome State Fault Refusal
  | 0, s => .next s
  | n + 1, s =>
    match step s with
    | .next t => runSteps n t
    | .fault r => .fault r
    | .refused r => .refused r

/-- RLE_DEC k stops with fault `f` after storing `row` at the start of its plane row and reading `n` bytes (R136, R167). -/
def RowFault (s : State) (k : BitVec 2) (row : List Byte) (n : Nat) (f : FaultCode) : Prop :=
  ∃ t : State, t = { s with pln := t.pln, spos := s.spos + BitVec.ofNat 32 n } ∧
    (∀ a, t.readPln a =
      let base := k.toNat * (s.width.toNat * s.height.toNat) + s.ycnt.toNat * s.width.toNat
      if base ≤ a then (row[a - base]?).getD (s.readPln a) else s.readPln a) ∧
    exec (.rleDec k) s = .next (t.enterFault f (Instr.word (.rleDec k)))

/-- The first quad of no scanline of the image is the marker of its width (R72 (d), R144). -/
def NoFalseMarker (s : State) : Prop :=
  ∀ y, y < s.height.toNat →
    let q := imageQuad s (y * s.width.toNat)
    ¬ (q.r = 2#8 ∧ q.g = 2#8 ∧ q.b.toNat * 256 + q.e.toNat = s.width.toNat)

/-- The checks of RLE_ENC k and RLE_DEC k pass (R122, R137, R62). -/
def PlaneRowChecks (k : BitVec 2) (s : State) : Prop :=
  GeomFits s.planes false s ∧ k.toNat < s.planes ∧ s.ycnt.toNat < s.height.toNat

/-- The checks of ENC_SCAN and DEC_SCAN pass (R127, R141). -/
def ScanChecks (s : State) : Prop := GeomFits s.planes false s ∧ s.ycnt.toNat < s.height.toNat

/-- The number of row bytes a run token stands for (R66). -/
def tokenLength : Instr → Option Nat
  | .rleZero => some 0
  | .rleDump n | .rleRepeat n => some n.toNat
  | .rleDump128 => some 128
  | .rleRepeat1 => some 1
  | .nop | .f2rgbe | .rgbe2f | .f2re | .re2f | .plnClr | .insRgbe | .insRe | .img2pln | .pln2img | .hdrWr | .hdrRd
  | .rleEnc _ | .encScan | .encImage | .rleDec _ | .decScan | .decImage | .srst
  | .scanMarker _ _ | .rgbeQuad _ _ _ _ => none

end Sys2Proof.Spec

open Sys2Proof Sys2Proof.Machine Sys2Proof.Spec

/-! ### Encoding -/

/-- Every well-formed instruction is what the decoder reads from its encoding, with every operand at every value (R60 to
R67). -/
def Obligations.DecodeOfEncodeIsTheInstruction : Prop :=
  ∀ i : Instr, i.wellFormed = true → decode (encode i) = .ok i

/-- The other direction: a code that decodes is the encoding of what it decodes to, which is well formed. A quad read at
the head of a scanline is encoded as the pixel it is. -/
def Obligations.EncodeOfDecodedIsTheCode : Prop :=
  (∀ w i, decode (.command w) = .ok i → encode i = .command w ∧ i.wellFormed = true) ∧
  (∀ c i, decode (.control c) = .ok i → encode i = .control c ∧ i.wellFormed = true) ∧
  (∀ w i, decode (.pixel w) = .ok i → encode i = .pixel w ∧ i.wellFormed = true) ∧
  (∀ w i, decode (.head w) = .ok i → (encode i = .head w ∨ encode i = .pixel w) ∧ i.wellFormed = true)

/-- R61: one row per command, selected by `word & mask == match`; no other word is a command. -/
def Obligations.OpcodeMapSelectsCommands : Prop :=
  ∀ w i, decode (.command w) = .ok i ↔
    ∃ r ∈ opcodeRows, w &&& r.mask = r.pattern ∧ i = r.command (w.extractLsb' 0 2)

/-- Words written out from R61, R65 to R67 and R72 decode to what they stand for (a sanity statement). -/
def Obligations.SpecWordsDecode : Prop :=
  decode (.command 0x01000000#32) = .ok .f2rgbe ∧ decode (.command 0x14000000#32) = .ok .pln2img ∧
  decode (.command 0x21000000#32) = .ok .hdrRd ∧ decode (.command 0x30000002#32) = .ok (.rleEnc 2#2) ∧
  decode (.command 0x40000003#32) = .ok (.rleDec 3#2) ∧ decode (.command 0xFF000000#32) = .ok .srst ∧
  decode (.control 0x00#8) = .ok .rleZero ∧ decode (.control 0x7F#8) = .ok (.rleDump 127#7) ∧
  decode (.control 0x80#8) = .ok .rleDump128 ∧ decode (.control 0x81#8) = .ok .rleRepeat1 ∧
  decode (.control 0x82#8) = .ok (.rleRepeat 2#7) ∧ decode (.control 0xFF#8) = .ok (.rleRepeat 127#7) ∧
  decode (.head 0x02020008#32) = .ok (.scanMarker 0x00#8 0x08#8) ∧
  decode (.pixel 0x80402081#32) = .ok (.rgbeQuad 0x80#8 0x40#8 0x20#8 0x81#8)

/-- R63 with R150: a word outside the opcode map raises ConfigFault and has no other effect; in the fault state it is
ignored. -/
def Obligations.IllegalWordRaisesConfigFault : Prop :=
  ∀ (s : State) (w : Word), s.decoding = none → ¬ MatchesRow w →
    execute w s =
      .next (if s.err = 0#4 then { s with status := (s.setErr 5#4).status, ecmd := w } else s)

/-! ### Steps -/

/-- A step runs the decoded instruction: between commands the host's next action, its index moved on by one, where a write
of `w` to `CMD` is `Execute(w)` for every word (R150, R153) and so exec of the command `w` decodes to; inside a decode
command (the model's own form, log 5) the token at `SPOS`, the fetch moving `SPOS` past it. A stream that ends at a
control byte, or inside the four bytes of a quad, whose first bytes are then stored, raises TruncatedData (R136, R141).
A host list that is exhausted leaves the machine idle (the model's choice of log 3, from R180 and R183). -/
def Obligations.StepRunsDecodedInstruction : Prop :=
  (∀ s : State, s.decoding = none → s.program.length ≤ s.pc → step s = .next s) ∧
  (∀ (s : State) (a : HostAction), s.decoding = none → s.program[s.pc]? = some a →
    step s = perform a { s with pc := s.pc + 1 }) ∧
  (∀ (s : State) (w : Word), s.decoding = none → s.program[s.pc]? = some (.writeReg 0x0E w) →
    step s = execute w { s with pc := s.pc + 1 }) ∧
  (∀ (s : State) (w : Word) (i : Instr), s.decoding = none → s.program[s.pc]? = some (.writeReg 0x0E w) →
    decode (.command w) = .ok i → step s = exec i { s with pc := s.pc + 1 }) ∧
  (∀ (s : State) (c : DecodeCommand) (dst : Option Nat) (done : Nat) (rest : List (Option Nat)),
    s.decoding = some ⟨c, .row dst done rest⟩ → s.decodable ⟨c, .row dst done rest⟩ = true →
    step s =
      if s.spos.toNat < s.slen.toNat then
        exec (decodeControl (s.readStr s.spos.toNat)) { s with spos := s.spos + 1#32 }
      else .next (s.enterFault .truncatedData c.word)) ∧
  (∀ (s : State) (c : DecodeCommand) (b0 b1 b2 b3 : Byte), Next s [b0, b1, b2, b3] →
    (s.decoding = some ⟨c, .head⟩ → s.decodable ⟨c, .head⟩ = true →
      step s = exec (decodeHead (b0 ++ b1 ++ b2 ++ b3)) { s with spos := s.spos + 4#32 }) ∧
    (∀ x, s.decoding = some ⟨c, .flat x⟩ → s.decodable ⟨c, .flat x⟩ = true →
      step s = exec (decodePixel (b0 ++ b1 ++ b2 ++ b3)) { s with spos := s.spos + 4#32 })) ∧
  (∀ (s : State) (c : DecodeCommand) (p : DecodePhase) (x : Nat) (bs : List Byte), bs.length < 4 → Rest s bs →
    (p = .head ∧ x = 0 ∨ p = .flat x) → s.decoding = some ⟨c, p⟩ → s.decodable ⟨c, p⟩ = true →
    ∃ u : State, u = { s with pln := u.pln, spos := s.spos + BitVec.ofNat 32 bs.length } ∧
      RowGot (pixelGot x bs) s.ycnt.toNat s u ∧ (∀ a, ¬ InRow s s.ycnt.toNat a → u.readPln a = s.readPln a) ∧
      step s = .next (u.enterFault .truncatedData c.word))

/-! ### Control, faults, reset -/

/-- R151, R152: NOP, word 0, leaves any state unchanged; SRST, word 0xFF000000, gives every register its reset value and
keeps the three memories. Both do so in the fault state too. -/
def Obligations.ControlCommands : Prop :=
  decode (.command 0x00000000#32) = .ok .nop ∧ decode (.command 0xFF000000#32) = .ok .srst ∧
  ∀ s : State, s.decoding = none →
    exec .nop s = .next s ∧
    ∃ t, exec .srst s = .next t ∧ RegistersReset t ∧
      t = { s with
        f0 := t.f0, f1 := t.f1, f2 := t.f2, q := t.q, width := t.width, height := t.height, mode := t.mode, px := t.px
        py := t.py, ycnt := t.ycnt, spos := t.spos, slen := t.slen, status := t.status, ecmd := t.ecmd }

/-- R168: while `STATUS.ERR != 0` every command but SRST is ignored with no state change, so no new fault is raised and
`ECMD` keeps its word; the host's register and memory accesses work as always (a read's value
goes to `readData`, the model's choice of log 4). -/
def Obligations.FaultStateIgnoresCommands : Prop :=
  ∀ s : State, s.decoding = none → s.err ≠ 0#4 →
    (∀ w : Word, w ≠ 0xFF000000#32 → execute w s = .next s) ∧
    (∀ i : Instr, isCommand i = true → i ≠ .srst → exec i s = .next s) ∧
    (∀ idx, perform (.readReg idx) s = .next { s with readData := s.readReg idx }) ∧
    (∀ idx v, idx ≠ 0x0E → perform (.writeReg idx v) s = .next (s.writeReg idx v)) ∧
    (∀ sp a, perform (.readMem sp a) s = .next { s with readData := s.readMem sp a }) ∧
    (∀ a v, a < s.cfg.imgWords → perform (.writeImg a v) s = .next (s.writeImg a v)) ∧
    (∀ a v, a < s.cfg.plnBytes → perform (.writePln a v) s = .next (s.writePln a v)) ∧
    (∀ a v, a < s.cfg.strBytes.toNat → perform (.writeStr a v) s = .next (s.writeStr a v))

/-- The model's own choice (log 8, from U10): no command runs while one is in progress. -/
def Obligations.CommandsRefusedWhileBusy : Prop :=
  ∀ (s : State) (i : Instr), isCommand i = true → s.decoding.isSome = true → exec i s = .refused .commandWhileBusy

/-- R31, R180: after a hard reset every register is at its reset value and the block is idle and not faulted, whatever the
parameters. That the reset input is a host action `hardReset`, taken like every other (the index moves on by one), which
keeps the parameters and the host's program, and lists no cell of any memory, is the model's choice of log 10 (and of
log 2 for the form of an unwritten memory); R31, R180 give the registers' values, idle and not faulted. -/
def Obligations.HardResetValues : Prop :=
  (∀ c n p, RegistersReset (State.resetWith c n p) ∧ (State.resetWith c n p).Ready) ∧
  (∀ s : State, s.decoding = none → s.program[s.pc]? = some .hardReset →
    ∃ t, step s = .next t ∧ RegistersReset t ∧ t.Ready ∧ t.img = [] ∧ t.pln = [] ∧ t.str = [] ∧ t.cfg = s.cfg ∧
      t.program = s.program ∧ t.pc = s.pc + 1)

/-- R167, R160: `raise X` during command word `w` writes the code to `STATUS.ERR` and `w` to `ECMD` and clears `BUSY`;
nothing else changes. The codes are those of R160's table. -/
def Obligations.FaultEntryWritesErrAndEcmd : Prop :=
  (∀ (f : FaultCode) (w : Word) (s : State),
    s.enterFault f w = { s with status := (s.enterFault f w).status, ecmd := w, decoding := none } ∧
    (s.enterFault f w).status.toNat = s.status.toNat / 16 * 16 + f.code.toNat ∧
    (s.enterFault f w).err = f.code ∧ (s.enterFault f w).busy = false) ∧
  FaultCode.malformedHeader.code = 1#4 ∧ FaultCode.truncatedData.code = 2#4 ∧ FaultCode.ioError.code = 3#4 ∧
  FaultCode.formatFault.code = 4#4 ∧ FaultCode.configFault.code = 5#4

/-! ### Color Converter -/

/-- R87, R92: F2RGBE and F2RE write the quad of their operands to `Q`, F2RE the one mantissa three times, and change
nothing else. -/
def Obligations.PackCommandsWriteQ : Prop :=
  Instr.word .f2rgbe = 0x01000000#32 ∧ Instr.word .f2re = 0x03000000#32 ∧
  ∀ s : State, s.Ready →
    exec .f2rgbe s = .next { s with q := (floatToRgbe s.cfg s.f0 s.f1 s.f2).word } ∧
    exec .f2re s = .next { s with q := (floatToRgbe s.cfg s.f0 s.f0 s.f0).word } ∧
    (floatToRgbe s.cfg s.f0 s.f0 s.f0).g = (floatToRgbe s.cfg s.f0 s.f0 s.f0).r ∧
    (floatToRgbe s.cfg s.f0 s.f0 s.f0).b = (floatToRgbe s.cfg s.f0 s.f0 s.f0).r

/-- R86: for the default modes `FloatToRgbe` is its bit-level form. -/
def Obligations.PackIsBitLevelForm : Prop :=
  ∀ (c : Config) (w0 w1 w2 v0 v1 v2 : Word), DefaultModes c → Canon w0 v0 → Canon w1 v1 → Canon w2 v2 →
    (floatToRgbe c w0 w1 w2).word = packR86 v0 v1 v2

/-- R91, R93: RGBE2F writes the three channels of `Q`, RE2F the one intensity of `Q.R` and `Q.E` three times, and nothing
else. -/
def Obligations.UnpackCommandsWriteFloats : Prop :=
  Instr.word .rgbe2f = 0x02000000#32 ∧ Instr.word .re2f = 0x04000000#32 ∧
  ∀ s : State, s.Ready →
    let v := fun hi => channelToFloat (s.q.extractLsb' hi 8) (s.q.extractLsb' 0 8)
    exec .rgbe2f s = .next { s with f0 := v 24, f1 := v 16, f2 := v 8 } ∧
    exec .re2f s = .next { s with f0 := v 24, f1 := v 24, f2 := v 24 }

/-- R89, R90: a channel of `RgbeToFloat` is +0.0 when `E = 0` and otherwise the pattern, sign bit 0, of the real number
`M * 2^(E-136)` exactly. -/
def Obligations.UnpackedChannelIsExact : Prop :=
  ∀ m e : Byte,
    (e = 0#8 → channelToFloat m e = 0#32) ∧
    (e ≠ 0#8 → isFinite (channelToFloat m e) ∧ signOf (channelToFloat m e) = 0 ∧
      real (channelToFloat m e) = (m.toNat : ℚ) * 2 ^ ((e.toNat : ℤ) - 136))

/-- R84, R85 (with R83's threshold and the real values of R81), for `OVF_MODE = wrap`, and for `sat255` wherever no operand
is limited (`max < 2^127`; a negative operand never is, log 12): the exponent byte is `(e + 128) mod 256`
where `2^(e-1) <= max < 2^e`; the mantissa of a channel `c >= 0` is `trunc(c * 2^(8-e))`; the mantissa of a channel
`c < 0` is 0 with `clamp0` and `(-trunc(|c| * 2^(8-e))) mod 256` with `wrap8`. -/
def Obligations.PackTruncatesScaledChannels : Prop :=
  ∀ (c : Config) (w0 w1 w2 : Word) (e : ℤ), c.ovfMode = .wrap ∨ maxReal w0 w1 w2 < 2 ^ (127 : ℤ) →
    isFinite w0 → isFinite w1 → isFinite w2 → 1 / 10 ^ 32 ≤ maxReal w0 w1 w2 → 2 ^ (e - 1) ≤ maxReal w0 w1 w2 → maxReal w0 w1 w2 < 2 ^ e →
    let q := floatToRgbe c w0 w1 w2
    (q.e.toNat : ℤ) = (e + 128) % 256 ∧
    ∀ p ∈ [(w0, q.r), (w1, q.g), (w2, q.b)],
      (0 ≤ real p.1 → (p.2.toNat : ℚ) ≤ real p.1 * 2 ^ (8 - e) ∧ real p.1 * 2 ^ (8 - e) < p.2.toNat + 1) ∧
      (real p.1 < 0 → c.negMode = .clamp0 → p.2 = 0#8) ∧
      (real p.1 < 0 → c.negMode = .wrap8 → (p.2.toNat : ℤ) = (-⌊|real p.1| * 2 ^ (8 - e)⌋) % 256)

/-- R83: the quad is (0, 0, 0, 0) exactly when `max < 1e-32`, in every mode; `0x0A4FB11F` is the smallest pattern that is
not below 10^-32. -/
def Obligations.BelowThresholdPacksToZero : Prop :=
  (∀ (c : Config) (w0 w1 w2 : Word), isFinite w0 → isFinite w1 → isFinite w2 →
    (floatToRgbe c w0 w1 w2 = ⟨0#8, 0#8, 0#8, 0#8⟩ ↔ maxReal w0 w1 w2 < 1 / 10 ^ 32)) ∧
  real 0x0A4FB11E#32 < 1 / 10 ^ 32 ∧ 1 / 10 ^ 32 ≤ real 0x0A4FB11F#32

/-- R84 for `max >= 2^127`: with `wrap` the exponent byte is 0 and every channel decodes to +0.0; with `sat255` it is 255
and the channels are those of the operands limited to `0x7EFFFFFF`, with the mantissas of R85 (a negative operand of
magnitude 2^127 or more is not limited, the model's reading of log 12, and with `wrap8` nothing is said of it). -/
def Obligations.ExponentOverflowFollowsOvfMode : Prop :=
  ∀ (c : Config) (w0 w1 w2 : Word), isFinite w0 → isFinite w1 → isFinite w2 → 2 ^ (127 : ℤ) ≤ maxReal w0 w1 w2 →
    let q := floatToRgbe c w0 w1 w2
    (c.ovfMode = .wrap → q.e = 0#8 ∧ channelToFloat q.r q.e = 0#32 ∧ channelToFloat q.g q.e = 0#32 ∧
      channelToFloat q.b q.e = 0#32) ∧
    (c.ovfMode = .sat255 → q.e = 255#8 ∧
      ∀ p ∈ [(w0, q.r), (w1, q.g), (w2, q.b)],
        (0 ≤ real p.1 → (p.2.toNat : ℚ) ≤ min (real p.1) (real 0x7EFFFFFF#32) * 2 ^ (-119 : ℤ) ∧
          min (real p.1) (real 0x7EFFFFFF#32) * 2 ^ (-119 : ℤ) < p.2.toNat + 1) ∧
        (real p.1 < 0 → c.negMode = .clamp0 → p.2 = 0#8) ∧
        (real p.1 < 0 → -(2 ^ (127 : ℤ)) < real p.1 → c.negMode = .wrap8 →
          (p.2.toNat : ℤ) = (-⌊|real p.1| * 2 ^ (-119 : ℤ)⌋) % 256))

/-- R82: a NaN of either sign packs as +0.0 and positive infinity as `0x7F7FFFFF`, in every position and mode; negative
infinity is a negative channel, so with `clamp0` its mantissa is 0. -/
def Obligations.NonFiniteOperandsAreCanonicalised : Prop :=
  ∀ (c : Config) (w0 w1 w2 v0 v1 v2 : Word), Canon w0 v0 → Canon w1 v1 → Canon w2 v2 →
    floatToRgbe c w0 w1 w2 = floatToRgbe c v0 v1 v2 ∧
    (c.negMode = .clamp0 →
      (w0 = 0xFF800000#32 → (floatToRgbe c w0 w1 w2).r = 0#8) ∧
      (w1 = 0xFF800000#32 → (floatToRgbe c w0 w1 w2).g = 0#8) ∧
      (w2 = 0xFF800000#32 → (floatToRgbe c w0 w1 w2).b = 0#8))

/-- R94: for finite non-negative operands below 2^127 and `max >= 1e-32`, every decoded channel `c'` has `c' <= c` and
`c - c' < 2^(e-8)`; with `max < 1e-32` every channel decodes to 0. -/
def Obligations.PackThenUnpackErrorBound : Prop :=
  ∀ (c : Config) (w0 w1 w2 : Word),
    (∀ w ∈ [w0, w1, w2], expOf w ≤ 253 ∧ 0 ≤ real w) →
    let q := floatToRgbe c w0 w1 w2
    (maxReal w0 w1 w2 < 1 / 10 ^ 32 → ∀ m ∈ [q.r, q.g, q.b], channelToFloat m q.e = 0#32) ∧
    (∀ e : ℤ, 1 / 10 ^ 32 ≤ maxReal w0 w1 w2 → 2 ^ (e - 1) ≤ maxReal w0 w1 w2 → maxReal w0 w1 w2 < 2 ^ e →
      ∀ p ∈ [(w0, q.r), (w1, q.g), (w2, q.b)],
        real (channelToFloat p.2 q.e) ≤ real p.1 ∧ real p.1 - real (channelToFloat p.2 q.e) < 2 ^ (e - 8))

/-- R94, the converse: `FloatToRgbe(RgbeToFloat(q)) = q` for `E >= 23` with a mantissa of at least 128, and for `E = 22`
with a mantissa of at least 208, in every mode. -/
def Obligations.UnpackThenPackIsIdentity : Prop :=
  ∀ (c : Config) (q : Quad),
    (23 ≤ q.e.toNat ∧ (128 ≤ q.r.toNat ∨ 128 ≤ q.g.toNat ∨ 128 ≤ q.b.toNat)) ∨
      (q.e.toNat = 22 ∧ (208 ≤ q.r.toNat ∨ 208 ≤ q.g.toNat ∨ 208 ≤ q.b.toNat)) →
    floatToRgbe c (channelToFloat q.r q.e) (channelToFloat q.g q.e) (channelToFloat q.b q.e) = q

/-! ### Plane buffer -/

/-- R111: PLN_CLR writes 0 to `PLN[0 .. P*N - 1]` and nothing else; ConfigFault, before any write, when the geometry does
not fit. -/
def Obligations.PlnClrZeroesThePlanes : Prop :=
  Instr.word .plnClr = 0x10000000#32 ∧
  ∀ s : State, s.Ready →
    (GeomFits s.planes false s → ∃ t, exec .plnClr s = .next t ∧ t = { s with pln := t.pln } ∧
      ∀ a, t.readPln a = if a < s.planes * (s.width.toNat * s.height.toNat) then 0#8 else s.readPln a) ∧
    (¬ GeomFits s.planes false s → ConfigFaults .plnClr s)

/-- R112, R113: INS_RGBE writes `Q` and the four bytes of pixel (`PX`, `PY`) of the four-plane layout, INS_RE `Q` and the
two bytes of the two-plane layout, whatever the mode; ConfigFault, before any write, when the geometry does not fit or
the pixel lies outside. -/
def Obligations.InsertCommandsStoreOnePixel : Prop :=
  Instr.word .insRgbe = 0x11000000#32 ∧ Instr.word .insRe = 0x12000000#32 ∧
  ∀ s : State, s.Ready →
    let n := s.width.toNat * s.height.toNat
    let p := s.py.toNat * s.width.toNat + s.px.toNat
    let inside := s.px.toNat < s.width.toNat ∧ s.py.toNat < s.height.toNat
    let q := floatToRgbe s.cfg s.f0 s.f1 s.f2
    let g := floatToRgbe s.cfg s.f0 s.f0 s.f0
    (GeomFits 4 false s ∧ inside → ∃ t, exec .insRgbe s = .next t ∧
      t = { s with q := q.r ++ q.g ++ q.b ++ q.e, pln := t.pln } ∧
      t.readPln p = q.r ∧ t.readPln (n + p) = q.g ∧ t.readPln (2 * n + p) = q.b ∧ t.readPln (3 * n + p) = q.e ∧
      ∀ a, a ∉ [p, n + p, 2 * n + p, 3 * n + p] → t.readPln a = s.readPln a) ∧
    (¬ (GeomFits 4 false s ∧ inside) → ConfigFaults .insRgbe s) ∧
    (GeomFits 2 false s ∧ inside → ∃ t, exec .insRe s = .next t ∧
      t = { s with q := g.r ++ g.r ++ g.r ++ g.e, pln := t.pln } ∧
      t.readPln p = g.r ∧ t.readPln (n + p) = g.e ∧
      ∀ a, a ∉ [p, n + p] → t.readPln a = s.readPln a) ∧
    (¬ (GeomFits 2 false s ∧ inside) → ConfigFaults .insRe s)

/-- R114: IMG2PLN writes the quad of every pixel of `IMG` to the planes and nothing else; ConfigFault, before any write,
when the geometry does not fit `PLN` or `IMG`. -/
def Obligations.Img2plnQuantizesTheImage : Prop :=
  Instr.word .img2pln = 0x13000000#32 ∧
  ∀ s : State, s.Ready →
    (GeomFits s.planes true s → ∃ t, exec .img2pln s = .next t ∧ t = { s with pln := t.pln } ∧
      ImageQuantized s t ∧
      ∀ a, s.planes * (s.width.toNat * s.height.toNat) ≤ a → t.readPln a = s.readPln a) ∧
    (¬ GeomFits s.planes true s → ConfigFaults .img2pln s)

/-- R115: PLN2IMG writes the floats of every pixel of the planes to `IMG[0 .. N*C - 1]` and nothing else; ConfigFault,
before any write, when the geometry does not fit. -/
def Obligations.Pln2imgUnpacksThePlanes : Prop :=
  Instr.word .pln2img = 0x14000000#32 ∧
  ∀ s : State, s.Ready →
    (GeomFits s.planes true s → ∃ t, exec .pln2img s = .next t ∧ t = { s with img := t.img } ∧
      ImageUnpacked t ∧
      ∀ a, s.width.toNat * s.height.toNat * s.channels ≤ a → t.readImg a = s.readImg a) ∧
    (¬ GeomFits s.planes true s → ConfigFaults .pln2img s)

/-! ### Header -/

/-- R101 (bytes of R70, digits of R102): HDR_WR writes the header for `HEIGHT` and `WIDTH` to the stream; ConfigFault,
before any byte, when either is 0; IoError after the earlier bytes when `STR` is full. -/
def Obligations.HdrWrWritesTheHeader : Prop :=
  Instr.word .hdrWr = 0x20000000#32 ∧
  ∀ s : State, s.Ready →
    (s.width ≠ 0#32 ∧ s.height ≠ 0#32 →
      Writes .hdrWr (headerBytes s.height.toNat s.width.toNat) id s) ∧
    (s.width = 0#32 ∨ s.height = 0#32 → ConfigFaults .hdrWr s)

/-- R103, R104, R105: HDR_RD accepts the magic line, any lines that are not dimension lines and among which the format
line stands, and a dimension line; it sets `HEIGHT`, `WIDTH` and `SPOS` and nothing else. -/
def Obligations.HdrRdReadsTheHeader : Prop :=
  ∀ (s : State) (bs : List Byte) (h w : Nat), s.Ready → IsHeader bs h w → Next s bs →
    exec .hdrRd s = .next { s with
      height := BitVec.ofNat 32 h
      width := BitVec.ofNat 32 w
      spos := s.spos + BitVec.ofNat 32 bs.length }

/-- R161: MalformedHeader for a first line that is not the magic, a dimension line before any format line, a line that
begins `-Y ` and is no dimension line, and a stream that ends before the dimension line's 0x0A, `SPOS >= SLEN` at the
start included; `SPOS` is where reading stopped and nothing else has changed. DEC_IMAGE begins with the same reader
(R142). -/
def Obligations.HdrRdRaisesMalformedHeader : Prop :=
  ∀ (s : State) (bs : List Byte), s.Ready → MalformedAfter s bs →
    let t := { s with spos := s.spos + BitVec.ofNat 32 bs.length }
    exec .hdrRd s = .next (State.enterFault .malformedHeader 0x21000000#32 t) ∧
    exec .decImage s = .next (State.enterFault .malformedHeader 0x42000000#32 t)

/-- R106: after HDR_WR at `SPOS = a` with no IoError, `SPOS <- a` and HDR_RD leave `WIDTH`, `HEIGHT` and `SPOS` as they
were after HDR_WR, whatever `WIDTH` and `HEIGHT` the host has written in between. -/
def Obligations.HeaderFidelity : Prop :=
  ∀ s : State, s.Ready → s.width ≠ 0#32 → s.height ≠ 0#32 →
    s.spos.toNat + (headerBytes s.height.toNat s.width.toNat).length ≤ s.cfg.strBytes.toNat →
    ∃ t, exec .hdrWr s = .next t ∧ t.err = 0#4 ∧
      ∀ w h, exec .hdrRd { t with spos := s.spos, width := w, height := h } = .next t

/-! ### Scanline Encoder -/

/-- R121, R123: `RleEncodeRow(row)` is the stream form of runs the encoder may write, which stand for `row` and follow each
other greedily; its length is at most `2*W` and at least `2*ceil(W/127)`. -/
def Obligations.EncodedRowIsGreedyRuns : Prop :=
  ∀ row : List Byte,
    (∃ rs : List Run, rleEncodeRow row = runBytes rs ∧ runRow rs = row ∧ (∀ r ∈ rs, r.Written) ∧
      rs.IsChain Run.Follows) ∧
    (rleEncodeRow row).length ≤ 2 * row.length ∧ 2 * ((row.length + 126) / 127) ≤ (rleEncodeRow row).length

/-- R122: RLE_ENC k writes `RleEncodeRow` of plane row `YCNT` of plane `k` to the stream; ConfigFault, before any write,
when a check fails; IoError when `STR` is full. -/
def Obligations.RleEncWritesThePlaneRow : Prop :=
  ∀ (s : State) (k : BitVec 2), s.Ready →
    Instr.word (.rleEnc k) = 0x30000000#32 + k.setWidth 32 ∧
    (PlaneRowChecks k s → Writes (.rleEnc k) (rleEncodeRow (planeRow s k.toNat s.ycnt.toNat)) id s) ∧
    (¬ PlaneRowChecks k s → ConfigFaults (.rleEnc k) s)

/-- R127 (R124 to R126): ENC_SCAN writes scanline `YCNT`, RLE when `8 <= WIDTH <= 32767` and flat otherwise, then sets
`STRAT` and adds 1 to `YCNT`; ConfigFault, before any write, when a check fails; IoError, with `YCNT` and `STRAT` as
before, when `STR` is full. -/
def Obligations.EncScanWritesTheScanline : Prop :=
  Instr.word .encScan = 0x31000000#32 ∧
  ∀ s : State, s.Ready →
    (ScanChecks s → Writes .encScan (scanBytes s s.ycnt.toNat)
      (fun t => { t with status := (t.setStrat (rleWidth s.width.toNat)).status, ycnt := t.ycnt + 1#32 }) s) ∧
    (¬ ScanChecks s → ConfigFaults .encScan s)

/-- R128: ENC_IMAGE does the conversion of IMG2PLN, then writes the header and every scanline, and leaves `YCNT = HEIGHT`
and the strategy in `STRAT`. When `STR` is full first, the planes are converted, the earlier bytes are written and
IoError is raised, with `YCNT` the scanline that failed and `STRAT` as the last complete one left it. When the header
fails, `YCNT` is as before: the model follows R128's pseudocode, not its prose "or 0" (the model's choice of log 16).
ConfigFault, before any write, when the geometry does not fit. -/
def Obligations.EncImageWritesTheFile : Prop :=
  Instr.word .encImage = 0x32000000#32 ∧
  ∀ s : State, s.Ready →
    (GeomFits s.planes true s → ∃ u, exec .img2pln s = .next u ∧
      let rle := rleWidth s.width.toNat
      let head := headerBytes s.height.toNat s.width.toNat
      let file := fun y => head ++ (List.range y).flatMap (scanBytes u)
      let room := s.cfg.strBytes.toNat - s.spos.toNat
      (s.spos.toNat + (file s.height.toNat).length ≤ s.cfg.strBytes.toNat →
        ∃ t, Appended (file s.height.toNat) u t ∧ exec .encImage s =
          .next { t with status := (t.setStrat rle).status, ycnt := s.height }) ∧
      (s.cfg.strBytes.toNat < s.spos.toNat + head.length →
        ∃ t, Appended (head.take room) u t ∧ exec .encImage s = .next (t.enterFault .ioError 0x32000000#32)) ∧
      (∀ y, y < s.height.toNat → s.spos.toNat + (file y).length ≤ s.cfg.strBytes.toNat →
        s.cfg.strBytes.toNat < s.spos.toNat + (file (y + 1)).length →
        ∃ t, Appended ((file (y + 1)).take room) u t ∧ exec .encImage s =
          .next (State.enterFault .ioError 0x32000000#32 { t with
            status := if y = 0 then t.status else (t.setStrat rle).status
            ycnt := BitVec.ofNat 32 y }))) ∧
    (¬ GeomFits s.planes true s → ConfigFaults .encImage s)

/-! ### Scanline Decoder -/

/-- R137, R138: RLE_DEC k accepts every sequence of readable runs whose lengths add up to `WIDTH`, stores what they stand
for in plane row `YCNT` of plane `k`, and reads exactly their bytes; ConfigFault, before any read, when a check fails. -/
def Obligations.RleDecStoresReadableRuns : Prop :=
  ∀ (s : State) (k : BitVec 2), s.Ready →
    Instr.word (.rleDec k) = 0x40000000#32 + k.setWidth 32 ∧
    (∀ rs : List Run, PlaneRowChecks k s → (∀ r ∈ rs, r.Readable) → (runRow rs).length = s.width.toNat →
      Next s (runBytes rs) →
      ∃ t, exec (.rleDec k) s = .next t ∧
        t = { s with pln := t.pln, spos := s.spos + BitVec.ofNat 32 (runBytes rs).length } ∧
        ∀ a, t.readPln a =
          let base := k.toNat * (s.width.toNat * s.height.toNat) + s.ycnt.toNat * s.width.toNat
          if base ≤ a then ((runRow rs)[a - base]?).getD (s.readPln a) else s.readPln a) ∧
    (¬ PlaneRowChecks k s → ConfigFaults (.rleDec k) s)

/-- R136, R165: after readable runs that leave the row short, `RleDecodeRow` raises FormatFault on control byte 0 and on a
run longer than the rest of the row, one past the control byte and before the run's data, and TruncatedData where the
stream ends: at a control byte (`SPOS >= SLEN` at the start included), before a repeat's value, or inside a dump, whose
earlier literals stay stored. -/
def Obligations.RleDecFaultsInTheRow : Prop :=
  ∀ (s : State) (k : BitVec 2) (rs : List Run) (f : FaultCode) (tail lits : List Byte), s.Ready → PlaneRowChecks k s →
    (∀ r ∈ rs, r.Readable) → (runRow rs).length < s.width.toNat →
    RowStop (s.width.toNat - (runRow rs).length) f tail lits → HoldsUpTo f s (runBytes rs ++ tail) →
    RowFault s k (runRow rs ++ lits) (runBytes rs ++ tail).length f

/-- R139: the marker test is true exactly when four bytes are left and they are 2, 2 and the width, high byte first; so
never for a width of 65536 or more. -/
def Obligations.MarkerTestReadsTheWidth : Prop :=
  ∀ s : State,
    (isMarker s = true ↔
      s.spos.toNat + 4 ≤ s.slen.toNat ∧ s.readStr s.spos.toNat = 2#8 ∧ s.readStr (s.spos.toNat + 1) = 2#8 ∧
      (s.readStr (s.spos.toNat + 2)).toNat * 256 + (s.readStr (s.spos.toNat + 3)).toNat = s.width.toNat) ∧
    (65536 ≤ s.width.toNat → isMarker s = false)

/-- R141 (R139, R140): DEC_SCAN reads an RLE or a flat scanline, stores the planes the mode keeps in row `YCNT`, records
the form in `STRAT` and adds 1 to `YCNT`. A scanline that stops, flat or in an RLE plane row, raises its fault with the
bytes so far stored, `SPOS` one past the last byte read, and `YCNT` and `STRAT` as before. ConfigFault, before any read,
when a check fails. -/
def Obligations.DecScanStoresTheScanline : Prop :=
  Instr.word .decScan = 0x41000000#32 ∧
  ∀ s : State, s.Ready →
    (∀ sc : Scan, ScanChecks s → sc.Readable s.width.toNat → Next s (sc.bytes s.width.toNat) →
      ∃ t, exec .decScan s = .next t ∧
        t = { s with
          pln := t.pln
          spos := s.spos + BitVec.ofNat 32 (sc.bytes s.width.toNat).length
          ycnt := s.ycnt + 1#32
          status := (s.setStrat sc.isRle).status } ∧
        RowsStored sc s.ycnt.toNat t ∧ ∀ a, ¬ InRow s s.ycnt.toNat a → t.readPln a = s.readPln a) ∧
    (∀ (f : FaultCode) (bs : List Byte) (got : Nat → Nat → Option Byte), ScanChecks s →
      ScanStop s.width.toNat f bs got → HoldsUpTo f s bs →
      ∃ t : State, t = { s with pln := t.pln, spos := s.spos + BitVec.ofNat 32 bs.length } ∧
        RowGot got s.ycnt.toNat s t ∧ (∀ a, ¬ InRow s s.ycnt.toNat a → t.readPln a = s.readPln a) ∧
        exec .decScan s = .next (t.enterFault f 0x41000000#32)) ∧
    (¬ ScanChecks s → ConfigFaults .decScan s)

/-- R142: DEC_IMAGE of a header, in any spelling HDR_RD accepts, and `HEIGHT` readable scanlines leaves the geometry of the
header, the scanlines in the planes, the image they unpack to in `IMG`, `YCNT = HEIGHT`, `SPOS` past the last scanline and
`STRAT` of the last one; ConfigFault with `WIDTH`, `HEIGHT` and `SPOS` already written when the parsed image does not
fit. -/
def Obligations.DecImageReadsTheFile : Prop :=
  Instr.word .decImage = 0x42000000#32 ∧
  ∀ (s : State) (head : List Byte) (h w : Nat), s.Ready → IsHeader head h w →
    let g := { s with height := BitVec.ofNat 32 h, width := BitVec.ofNat 32 w }
    (∀ (scs : List Scan) (last : Scan), GeomFits s.planes true g → scs.length = h → scs.getLast? = some last →
      (∀ sc ∈ scs, sc.Readable w) → Next s (head ++ scs.flatMap (Scan.bytes w)) →
      ∃ t, exec .decImage s = .next t ∧
        t = { g with
          pln := t.pln
          img := t.img
          spos := s.spos + BitVec.ofNat 32 (head ++ scs.flatMap (Scan.bytes w)).length
          ycnt := BitVec.ofNat 32 h
          status := (s.setStrat last.isRle).status } ∧
        (∀ y sc, scs[y]? = some sc → RowsStored sc y t) ∧ ImageUnpacked t ∧
        (∀ a, s.planes * (w * h) ≤ a → t.readPln a = s.readPln a) ∧
        (∀ a, w * h * s.channels ≤ a → t.readImg a = s.readImg a)) ∧
    (¬ GeomFits s.planes true g → Next s head →
      exec .decImage s = .next (State.enterFault .configFault 0x42000000#32
        { g with spos := s.spos + BitVec.ofNat 32 head.length }))

/-- R142 for a fault in a scanline: DEC_IMAGE of a header, fewer than `HEIGHT` readable scanlines and one that stops raises
the fault of that scanline. The geometry is the header's, the scanlines before it and its bytes so far are in the planes,
`YCNT` is its number, `STRAT` is of the last complete one, `SPOS` is one past the last byte read, and `IMG` and everything
else are as before. -/
def Obligations.DecImageFaultsInAScanline : Prop :=
  ∀ (s : State) (head : List Byte) (h w : Nat) (scs : List Scan) (f : FaultCode) (bs : List Byte)
    (got : Nat → Nat → Option Byte), s.Ready → IsHeader head h w →
    let g := { s with height := BitVec.ofNat 32 h, width := BitVec.ofNat 32 w }
    GeomFits s.planes true g → scs.length < h → (∀ sc ∈ scs, sc.Readable w) → ScanStop w f bs got →
    HoldsUpTo f s (head ++ scs.flatMap (Scan.bytes w) ++ bs) →
    ∃ t : State,
      t = { g with
        pln := t.pln
        spos := s.spos + BitVec.ofNat 32 (head ++ scs.flatMap (Scan.bytes w) ++ bs).length
        ycnt := BitVec.ofNat 32 scs.length
        status := match scs.getLast? with
          | some last => (s.setStrat last.isRle).status
          | none => s.status } ∧
      (∀ y sc, scs[y]? = some sc → RowsStored sc y t) ∧ RowGot got scs.length g t ∧
      (∀ a, (∀ y, y ≤ scs.length → ¬ InRow g y a) → t.readPln a = s.readPln a) ∧
      exec .decImage s = .next (t.enterFault f 0x42000000#32)

/-- R142: `IMG` is written only after every scanline has been decoded, so a DEC_IMAGE that faults leaves it unchanged. -/
def Obligations.FaultedDecImageKeepsTheImage : Prop :=
  ∀ s t : State, s.Ready → exec .decImage s = .next t → t.err ≠ 0#4 → t.img = s.img

/-- R123 (d), R138 (d) on the machine: RLE_ENC k, then RLE_DEC into any plane from the same place, puts the row of plane
`k` there and reads exactly what was written. -/
def Obligations.PlaneRowRoundTrip : Prop :=
  ∀ (s : State) (k : BitVec 2), s.Ready → PlaneRowChecks k s →
    s.spos.toNat + (rleEncodeRow (planeRow s k.toNat s.ycnt.toNat)).length ≤ s.cfg.strBytes.toNat →
    ∃ t, exec (.rleEnc k) s = .next t ∧ t.err = 0#4 ∧
      ∀ j : BitVec 2, j.toNat < s.planes → ∃ u, exec (.rleDec j) { t with spos := s.spos } = .next u ∧ u.err = 0#4 ∧
        planeRow u j.toNat s.ycnt.toNat = planeRow s k.toNat s.ycnt.toNat ∧ u.spos = t.spos

/-- R144: ENC_IMAGE that completes, rewind, DEC_IMAGE with the same mode, whatever geometry the host has written in
between, gives back the geometry, the planes ENC_IMAGE built, and their floats in `IMG`: for every width the encoder
writes as RLE, for flat widths below 8 and above 65535, and for flat widths 32768 to 65535 when no scanline begins with
the marker of its width. ENC_IMAGE completes wherever its longest file has room. -/
def Obligations.ImageRoundTrip : Prop :=
  ∀ s : State, s.Ready → GeomFits s.planes true s →
    (s.spos.toNat + (headerBytes s.height.toNat s.width.toNat).length +
      s.height.toNat * (if rleWidth s.width.toNat then 4 + 8 * s.width.toNat else 4 * s.width.toNat) ≤
        s.cfg.strBytes.toNat →
      ∃ t, exec .encImage s = .next t ∧ t.err = 0#4) ∧
    ((32768 ≤ s.width.toNat → s.width.toNat ≤ 65535 → NoFalseMarker s) →
      ∀ t, exec .encImage s = .next t → t.err = 0#4 → ImageQuantized s t ∧
        ∀ w h, ∃ u, exec .decImage { t with spos := s.spos, width := w, height := h } = .next u ∧ u.err = 0#4 ∧
          u.width = s.width ∧ u.height = s.height ∧ u.spos = t.spos ∧ ImageQuantized s u ∧ ImageUnpacked u)

/-! ### Stream tokens -/

/-- R66, R72, R136: inside a plane row (a decode command in progress, the model's own form, log 5) a run token whose data
are in the stream produces its `n` bytes (literals, or `n` copies of the one value) at the next place of the row, and the
row goes on, the next row begins, or the scanline is complete; RLE_ZERO raises FormatFault; a run that passes the rest of
the row raises FormatFault; a run whose data end early raises TruncatedData with the literals that were there stored.
Outside a row nothing happens (the model's choice of log 6). -/
def Obligations.RunTokensProduceTheirBytes : Prop :=
  (∀ (s : State) (c : DecodeCommand) (dst : Option Nat) (done : Nat) (rest : List (Option Nat)),
    s.decoding = some ⟨c, .row dst done rest⟩ → s.decodable ⟨c, .row dst done rest⟩ = true →
    let left := s.width.toNat - done
    let stored := fun (row : List Byte) (m : Nat) (u : State) =>
      u = { s with pln := u.pln, spos := s.spos + BitVec.ofNat 32 m } ∧
        ∀ a, u.readPln a =
          match dst with
          | none => s.readPln a
          | some d => if d + done ≤ a then (row[a - (d + done)]?).getD (s.readPln a) else s.readPln a
    let after := fun (row : List Byte) (m : Nat) (i : Instr) =>
      ∃ u t : State, stored row m u ∧ exec i s = .next t ∧ RowGoesOn c dst (done + row.length) rest u t
    let ends := fun (row : List Byte) (i : Instr) =>
      ∃ u : State, stored row row.length u ∧ exec i s = .next (u.enterFault .truncatedData c.word)
    let stops := fun (i : Instr) => exec i s = .next (s.enterFault .formatFault c.word)
    stops .rleZero ∧
    (∀ (n : BitVec 7) (bs : List Byte), n.toNat ≤ left →
      (bs.length = n.toNat → Next s bs → after bs n.toNat (.rleDump n)) ∧
      (bs.length < n.toNat → Rest s bs → ends bs (.rleDump n))) ∧
    (∀ bs : List Byte, 128 ≤ left →
      (bs.length = 128 → Next s bs → after bs 128 .rleDump128) ∧
      (bs.length < 128 → Rest s bs → ends bs .rleDump128)) ∧
    (∀ v : Byte, Next s [v] → after [v] 1 .rleRepeat1) ∧ (Rest s [] → ends [] .rleRepeat1) ∧
    (∀ n : BitVec 7, n.toNat ≤ left →
      (∀ v : Byte, Next s [v] → after (List.replicate n.toNat v) 1 (.rleRepeat n)) ∧
      (Rest s [] → ends [] (.rleRepeat n))) ∧
    (∀ n : BitVec 7, left < n.toNat → stops (.rleDump n) ∧ stops (.rleRepeat n)) ∧
    (left < 128 → stops .rleDump128)) ∧
  (∀ (s : State) (i : Instr), (tokenLength i).isSome = true →
    (∀ c dst done rest, s.decoding ≠ some ⟨c, .row dst done rest⟩) → exec i s = .next s)

/-- R139 to R142: at the head of a scanline (a decode command in progress, the model's own form, log 5) SCAN_MARKER with the
width begins the four plane rows, and with another width is the first flat quad; RGBE_QUAD stores the bytes of the planes
the mode keeps at its pixel, and the command goes on to the next pixel or, after the last, completes the flat scanline:
DEC_SCAN ends, DEC_IMAGE goes on to the next scanline or to the loop of PLN2IMG. Elsewhere nothing happens (the model's
choice of log 6). -/
def Obligations.MarkerAndQuadTokens : Prop :=
  (∀ (s : State) (c : DecodeCommand) (h l : Byte), s.decoding = some ⟨c, .head⟩ → s.decodable ⟨c, .head⟩ = true →
    (h.toNat * 256 + l.toNat = s.width.toNat →
      let base := fun k => some (k * (s.width.toNat * s.height.toNat) + s.ycnt.toNat * s.width.toNat)
      exec (.scanMarker h l) s = .next { s with decoding := some ⟨c,
        if s.rgb then .row (base 0) 0 [base 1, base 2, base 3] else .row (base 0) 0 [none, none, base 1]⟩ }) ∧
    (h.toNat * 256 + l.toNat ≠ s.width.toNat →
      exec (.scanMarker h l) s = exec (.rgbeQuad 2#8 2#8 h l) s)) ∧
  (∀ (s : State) (c : DecodeCommand) (p : DecodePhase) (x : Nat) (r g b e : Byte),
    (p = .head ∧ x = 0 ∨ p = .flat x) → s.decoding = some ⟨c, p⟩ → s.decodable ⟨c, p⟩ = true →
    ∃ u : State, u = { s with pln := u.pln } ∧ RowGot (pixelGot x [r, g, b, e]) s.ycnt.toNat s u ∧
      (∀ a, ¬ InRow s s.ycnt.toNat a → u.readPln a = s.readPln a) ∧
      (x + 1 < s.width.toNat → exec (.rgbeQuad r g b e) s = .next { u with decoding := some ⟨c, .flat (x + 1)⟩ }) ∧
      (x + 1 = s.width.toNat → ∃ t, exec (.rgbeQuad r g b e) s = .next t ∧ ScanlineEnds c false u t)) ∧
  (∀ (s : State) (r g b e : Byte), (∀ c, s.decoding ≠ some ⟨c, .head⟩) → exec (.scanMarker r g) s = .next s ∧
    ((∀ c x, s.decoding ≠ some ⟨c, .flat x⟩) → exec (.rgbeQuad r g b e) s = .next s))

/-- The token steps refine the atomic command (R7, R136): RLE_DEC k comes to what its stream tokens come to, one step
each, from the start of its plane row (a decode command in progress, the model's own form, log 5), whether it completes
or faults. -/
def Obligations.RleDecIsItsTokens : Prop :=
  ∀ (s : State) (k : BitVec 2), s.Ready → PlaneRowChecks k s → ∃ n,
    runSteps n { s with decoding := some ⟨.rleDec k,
      .row (some (k.toNat * (s.width.toNat * s.height.toNat) + s.ycnt.toNat * s.width.toNat)) 0 []⟩ } = exec (.rleDec k) s

/-- The token steps refine the atomic command (R7, R141): DEC_SCAN comes to what its stream tokens come to, one step each,
from the head of its scanline (a decode command in progress, the model's own form, log 5), whether it completes or
faults. -/
def Obligations.DecScanIsItsTokens : Prop :=
  ∀ s : State, s.Ready → ScanChecks s → ∃ n,
    runSteps n { s with decoding := some ⟨.decScan, .head⟩ } = exec .decScan s

/-! ### Frames -/

/-- What the commands that store nothing to memory leave unchanged: everything but `Q`, or but the `F` registers. -/
def Obligations.RegisterCommandFrame : Prop :=
  ∀ s t : State,
    (exec .nop s = .next t → t = s) ∧
    (exec .f2rgbe s = .next t → t = { s with q := t.q }) ∧
    (exec .f2re s = .next t → t = { s with q := t.q }) ∧
    (exec .rgbe2f s = .next t → t = { s with f0 := t.f0, f1 := t.f1, f2 := t.f2 }) ∧
    (exec .re2f s = .next t → t = { s with f0 := t.f0, f1 := t.f1, f2 := t.f2 })

/-- What the plane buffer commands leave unchanged: every register but `Q` for the insertions (and `STATUS.ERR`, `ECMD`
on a fault), every cell of the other memories, and every cell of their own destination outside the cells stored to. -/
def Obligations.PlaneCommandFrame : Prop :=
  ∀ s t : State,
    let n := s.width.toNat * s.height.toNat
    let p := s.py.toNat * s.width.toNat + s.px.toNat
    (∀ i, (i = .plnClr ∨ i = .img2pln) → exec i s = .next t →
      t = { s with pln := t.pln, status := t.status, ecmd := t.ecmd } ∧ FaultOnly i.word s t ∧
      ∀ a, s.planes * n ≤ a → t.readPln a = s.readPln a) ∧
    (exec .insRgbe s = .next t →
      t = { s with q := t.q, pln := t.pln, status := t.status, ecmd := t.ecmd } ∧
      FaultOnly (Instr.word .insRgbe) s t ∧
      ∀ a, a ∉ [p, n + p, 2 * n + p, 3 * n + p] → t.readPln a = s.readPln a) ∧
    (exec .insRe s = .next t →
      t = { s with q := t.q, pln := t.pln, status := t.status, ecmd := t.ecmd } ∧
      FaultOnly (Instr.word .insRe) s t ∧ ∀ a, a ∉ [p, n + p] → t.readPln a = s.readPln a) ∧
    (exec .pln2img s = .next t →
      t = { s with img := t.img, status := t.status, ecmd := t.ecmd } ∧ FaultOnly (Instr.word .pln2img) s t ∧
      ∀ a, n * s.channels ≤ a → t.readImg a = s.readImg a)

/-- What the commands that write the stream leave unchanged: every register but `SPOS`, `SLEN` (and `YCNT`, `STRAT` for
the scanline commands, and `STATUS.ERR`, `ECMD` on a fault), `IMG`, `PLN` (but the planes for ENC_IMAGE), and every
cell of `STR` outside the bytes from the old `SPOS` up to the new one. -/
def Obligations.StreamWriterFrame : Prop :=
  ∀ s t : State,
    let others := ∀ a, (a < s.spos.toNat ∨ t.spos.toNat ≤ a) → t.readStr a = s.readStr a
    (∀ i, (i = .hdrWr ∨ ∃ k, i = .rleEnc k) → exec i s = .next t →
      t = { s with str := t.str, spos := t.spos, slen := t.slen, status := t.status, ecmd := t.ecmd } ∧
      FaultOnly i.word s t ∧ others) ∧
    (exec .encScan s = .next t →
      t = { s with
        str := t.str, spos := t.spos, slen := t.slen, ycnt := t.ycnt, status := t.status, ecmd := t.ecmd } ∧
      ScanFaultOnly (Instr.word .encScan) s t ∧ others) ∧
    (exec .encImage s = .next t →
      t = { s with
        str := t.str, spos := t.spos, slen := t.slen, ycnt := t.ycnt, status := t.status, ecmd := t.ecmd
        pln := t.pln } ∧
      ScanFaultOnly (Instr.word .encImage) s t ∧ others ∧
      ∀ a, s.planes * (s.width.toNat * s.height.toNat) ≤ a → t.readPln a = s.readPln a)

/-- What the commands that read the stream leave unchanged: `STR`, `SLEN`, and every register but `SPOS` and those the
rule names; every cell of `PLN` outside the rows decoded, every cell of `IMG` (outside the image for DEC_IMAGE). -/
def Obligations.StreamReaderFrame : Prop :=
  ∀ s t : State,
    (exec .hdrRd s = .next t →
      t = { s with spos := t.spos, width := t.width, height := t.height, status := t.status, ecmd := t.ecmd } ∧
      FaultOnly (Instr.word .hdrRd) s t) ∧
    (∀ k, exec (.rleDec k) s = .next t →
      t = { s with spos := t.spos, pln := t.pln, status := t.status, ecmd := t.ecmd } ∧
      FaultOnly (Instr.word (.rleDec k)) s t ∧
      ∀ a, (let base := k.toNat * (s.width.toNat * s.height.toNat) + s.ycnt.toNat * s.width.toNat
        a < base ∨ base + s.width.toNat ≤ a) → t.readPln a = s.readPln a) ∧
    (exec .decScan s = .next t →
      t = { s with spos := t.spos, pln := t.pln, ycnt := t.ycnt, status := t.status, ecmd := t.ecmd } ∧
      ScanFaultOnly (Instr.word .decScan) s t ∧ ∀ a, ¬ InRow s s.ycnt.toNat a → t.readPln a = s.readPln a) ∧
    (exec .decImage s = .next t →
      t = { s with
        spos := t.spos, width := t.width, height := t.height, ycnt := t.ycnt, pln := t.pln, img := t.img
        status := t.status, ecmd := t.ecmd } ∧
      ScanFaultOnly (Instr.word .decImage) s t ∧
      (∀ a, t.planes * (t.width.toNat * t.height.toNat) ≤ a → t.readPln a = s.readPln a) ∧
      (∀ a, t.width.toNat * t.height.toNat * t.channels ≤ a → t.readImg a = s.readImg a))

/-- What the stream tokens, instructions of the model's own inside a decode command in progress (log 5) that change nothing
outside one (log 6), leave unchanged: `STR`, `SLEN` and every register but `SPOS`, `YCNT`, `STATUS` and `ECMD`; every
cell of `PLN` outside the bytes of the run or pixel; `IMG`, except where the last scanline of DEC_IMAGE ends in the
loop of PLN2IMG, and there every cell outside the image. -/
def Obligations.TokenFrame : Prop :=
  ∀ (s t : State) (i : Instr), isCommand i = false → exec i s = .next t →
    t = { s with
      spos := t.spos, pln := t.pln, img := t.img, ycnt := t.ycnt, status := t.status, ecmd := t.ecmd
      decoding := t.decoding } ∧
    (∀ a, s.width.toNat * s.height.toNat * s.channels ≤ a → t.readImg a = s.readImg a) ∧
    ((∀ p, s.decoding ≠ some ⟨.decImage, p⟩) → t.img = s.img) ∧
    (∀ c p, s.decoding = some ⟨c, p⟩ → ScanFaultOnly c.word s t) ∧
    (∀ c dst done rest n, s.decoding = some ⟨c, .row dst done rest⟩ → tokenLength i = some n →
      ∀ a, (∀ d, dst = some d → a < d + done ∨ d + done + n ≤ a) → t.readPln a = s.readPln a) ∧
    (∀ c p x, (p = .head ∧ x = 0 ∨ p = .flat x) → s.decoding = some ⟨c, p⟩ →
      ∀ a, (∀ k, k < s.planes → a ≠ k * (s.width.toNat * s.height.toNat) + s.ycnt.toNat * s.width.toNat + x) →
        t.readPln a = s.readPln a)

/-- No instruction changes the parameters (R10) or the host's program and index (R28: "no command can change it"), nor the
model's own fields: the count of hard resets (the model's choice of log 2) and the value last returned to the host (the
model's choice of log 4, SRST included). -/
def Obligations.InstructionsKeepHostAndParameters : Prop :=
  ∀ (i : Instr) (s t : State), exec i s = .next t →
    t.cfg = s.cfg ∧ t.powerOns = s.powerOns ∧ t.program = s.program ∧ t.pc = s.pc ∧ t.readData = s.readData

/-! ### Invariants and whole-machine rules -/

/-- The invariant and the capacity bound hold after a hard reset, whatever the parameters (no cell is listed: the model's
choice of log 2). -/
def Obligations.InvariantHoldsAtReset : Prop :=
  ∀ c n p, (State.resetWith c n p).Inv ∧ (State.resetWith c n p).CellsInside

/-- Every step keeps the invariant: canonical memories, the hardwired zeros of `MODE` and `STATUS`, legal fault codes,
`SPOS` and `SLEN` inside `STR`, no command half done, `ECMD` latched with `ERR`. The canonical form of a memory is the
model's choice of log 2, a hard reset as a host's step that of log 10. -/
def Obligations.StepKeepsInvariant : Prop :=
  ∀ s t : State, s.Inv → step s = .next t → t.Inv

/-- Every step keeps every cell inside its memory's capacity (R45, R154). -/
def Obligations.StepKeepsCellsInside : Prop :=
  ∀ s t : State, s.Inv → s.CellsInside → step s = .next t → t.CellsInside

/-- From every state of the invariant a step answers a next state: nothing stops the machine. With the host's list
exhausted that is the idle step (the model's choice of log 3; R183 says the run is over). -/
def Obligations.StepNeverStops : Prop :=
  ∀ s : State, s.Inv → ∃ t, step s = .next t

/-- R168, R169: a latched fault code and its command word stay until SRST or a hard reset. That both are actions of the
host's list is the model's choice of log 3 and log 10. -/
def Obligations.ErrIsStickyUntilReset : Prop :=
  ∀ s t : State, s.Inv → s.err ≠ 0#4 → step s = .next t →
    (t.err = s.err ∧ t.ecmd = s.ecmd) ∨
    s.program[s.pc]? = some (.writeReg 0x0E 0xFF000000#32) ∨ s.program[s.pc]? = some .hardReset

/-- An instruction raises no fault but those allowed it: for the commands, those of its row of R176's table. The table lists
no stream token; for the tokens (instructions of the model's own, log 5) the allowed faults are the model's choice of
log 5: FormatFault and TruncatedData for the runs, none for markers and quads, since a token's own meaning begins when its
first byte or its four bytes have been read, and the step raises TruncatedData where they end early. -/
def Obligations.InstructionRaisesOnlyItsFaults : Prop :=
  ∀ (i : Instr) (s t : State), s.err = 0#4 → exec i s = .next t →
    t.err = 0#4 ∨ ∃ f, mayRaise i f = true ∧ t.err = f.code

/-! ### Host port -/

/-- R153 (R27): a host register read returns the register, 0 for `CMD` and unnamed indices, and changes nothing; a write
stores to the nine plain registers, bit 0 of `MODE`, the clamped `SPOS` and `SLEN`, and is dropped for `STATUS`, `ECMD`
and unnamed indices. That a read's value goes to the model's own field `readData` is the model's choice of log 4. -/
def Obligations.HostRegisterPort : Prop :=
  ∀ (s : State) (v : Word), s.decoding = none →
    (let reads := fun idx (r : Word) => perform (.readReg idx) s = .next { s with readData := r }
     reads 0x00 s.f0 ∧ reads 0x01 s.f1 ∧ reads 0x02 s.f2 ∧ reads 0x03 s.q ∧ reads 0x04 s.width ∧
     reads 0x05 s.height ∧ reads 0x06 (s.mode &&& 1#32) ∧ reads 0x07 s.px ∧ reads 0x08 s.py ∧ reads 0x09 s.ycnt ∧
     reads 0x0A s.spos ∧ reads 0x0B s.slen ∧ reads 0x0C (s.status &&& 0x1F#32) ∧ reads 0x0D s.ecmd ∧
     ∀ idx, 0x0E ≤ idx → reads idx 0#32) ∧
    (let writes := fun idx (t : State) => perform (.writeReg idx v) s = .next t
     let clamped := BitVec.ofNat 32 (min v.toNat s.cfg.strBytes.toNat)
     writes 0x00 { s with f0 := v } ∧ writes 0x01 { s with f1 := v } ∧ writes 0x02 { s with f2 := v } ∧
     writes 0x03 { s with q := v } ∧ writes 0x04 { s with width := v } ∧ writes 0x05 { s with height := v } ∧
     writes 0x06 { s with mode := BitVec.ofNat 32 (v.toNat % 2) } ∧ writes 0x07 { s with px := v } ∧
     writes 0x08 { s with py := v } ∧ writes 0x09 { s with ycnt := v } ∧ writes 0x0A { s with spos := clamped } ∧
     writes 0x0B { s with slen := clamped } ∧ writes 0x0C s ∧ writes 0x0D s ∧
     ∀ idx, 0x0F ≤ idx → writes idx s)

/-- R154: a host memory write below the capacity is what a later read returns, it changes no other cell, and no register;
at or above the capacity a write is dropped and a read returns 0. That a read's value goes to the model's own field
`readData`, a byte of `PLN` or `STR` extended with zeros to 32 bits, is the model's choice of log 4. -/
def Obligations.HostMemoryPort : Prop :=
  ∀ (s : State) (a : Nat) (v : Word) (b : Byte),
    (a < s.cfg.imgWords → ∃ t, perform (.writeImg a v) s = .next t ∧ t = { s with img := t.img } ∧
      t.readMem .img a = v ∧ ∀ x, x ≠ a → t.readImg x = s.readImg x) ∧
    (a < s.cfg.plnBytes → ∃ t, perform (.writePln a b) s = .next t ∧ t = { s with pln := t.pln } ∧
      t.readMem .pln a = b.setWidth 32 ∧ ∀ x, x ≠ a → t.readPln x = s.readPln x) ∧
    (a < s.cfg.strBytes.toNat → ∃ t, perform (.writeStr a b) s = .next t ∧ t = { s with str := t.str } ∧
      t.readMem .str a = b.setWidth 32 ∧ ∀ x, x ≠ a → t.readStr x = s.readStr x) ∧
    (s.cfg.imgWords ≤ a → perform (.writeImg a v) s = .next s ∧ s.readMem .img a = 0#32) ∧
    (s.cfg.plnBytes ≤ a → perform (.writePln a b) s = .next s ∧ s.readMem .pln a = 0#32) ∧
    (s.cfg.strBytes.toNat ≤ a → perform (.writeStr a b) s = .next s ∧ s.readMem .str a = 0#32) ∧
    (∀ sp, perform (.readMem sp a) s = .next { s with readData := s.readMem sp a })
end

