-- ==== Sys2Proof/Laws/Bits.lean ====
section
/-! SUPPORT. Bit fields as numbers. -/

namespace Sys2Proof

/-- A concatenation as a number (R5 "`a ++ b` concatenates, `a` in the high bits"). -/
theorem append_toNat {m n : Nat} (x : BitVec m) (y : BitVec n) : (x ++ y).toNat = x.toNat * 2 ^ n + y.toNat := by
  rw [BitVec.toNat_append, Nat.shiftLeft_eq, Nat.mul_comm, Nat.two_pow_add_eq_or_of_lt y.isLt]

/-- A field as a number (R5 "`v[hi:lo]`"). -/
theorem extract_toNat {m : Nat} (x : BitVec m) (lo len : Nat) :
    (x.extractLsb' lo len).toNat = x.toNat / 2 ^ lo % 2 ^ len := by
  rw [BitVec.extractLsb'_toNat, Nat.shiftRight_eq_div_pow]

theorem bool_toNat_inj {a b : Bool} (h : a.toNat = b.toNat) : a = b := by
  cases a <;> cases b <;> first | rfl | exact absurd h (by decide)

/-- One bit as a number. -/
theorem getLsbD_toNat {m : Nat} (x : BitVec m) (i : Nat) : (x.getLsbD i).toNat = x.toNat / 2 ^ i % 2 := by
  rw [BitVec.getLsbD, Nat.toNat_testBit]

end Sys2Proof
end

