-- ==== Sys2Proof/Laws/Converter.lean ====
section
/-! SUPPORT. The fields of a binary32 pattern as numbers (R81), and the small functions of the converter. -/

namespace Sys2Proof.Machine

theorem expField_eq (w : Word) : expField w = w.toNat / 2 ^ 23 % 256 := extract_toNat w 23 8

theorem fracField_eq (w : Word) : fracField w = w.toNat % 2 ^ 23 := by
  rw [fracField, extract_toNat, pow_zero, Nat.div_one]

theorem signBit_eq (w : Word) : (signBit w).toNat = w.toNat / 2 ^ 31 := by
  have := w.isLt
  rw [signBit, getLsbD_toNat]; omega

/-- A pattern without its sign is `x * 2^23 + f` (R81). -/
theorem pattern_eq (w : Word) (h : signBit w = false) : w.toNat = expField w * 2 ^ 23 + fracField w := by
  have h1 := signBit_eq w
  have h2 := w.isLt
  rw [h] at h1
  rw [expField_eq, fracField_eq]
  simp only [Bool.toNat_false] at h1
  omega

theorem fracField_lt (w : Word) : fracField w < 2 ^ 23 := by rw [fracField_eq]; omega

theorem expField_lt (w : Word) : expField w < 256 := by rw [expField_eq]; omega

theorem significand_lt (w : Word) : significand w < 2 ^ 24 := by
  have := fracField_lt w
  rw [significand]; split <;> omega

/-- R82 leaves every finite pattern as it is. -/
theorem canonical_finite (w : Word) (h : expField w ≠ 255) : canonical .canon w = w := by
  have h1 : isNaN w = false := by rw [isNaN, beq_false_of_ne h]; rfl
  have h2 : w ≠ 0x7F800000#32 := fun e => h (by rw [e]; decide)
  rw [canonical, h1, if_neg Bool.false_ne_true, if_neg h2]

/-- `canon` of a canonicalised pattern is that pattern (R82). -/
theorem canonical_idem (n : NonFinite) (w : Word) : canonical n (canonical n w) = canonical n w := by
  cases n
  by_cases h : isNaN w = true
  · simp only [canonical, h, if_true]; decide
  · by_cases h2 : w = 0x7F800000#32
    · subst h2; decide
    · simp only [canonical, h, h2, if_false, Bool.false_eq_true]

/-- `floor(log2(M))`: the top set bit of a byte (R90). -/
theorem topBit_spec : ∀ m : Byte, m ≠ 0#8 → 2 ^ topBit m ≤ m.toNat ∧ m.toNat < 2 ^ (topBit m + 1) := by decide

theorem topBit_le : ∀ m : Byte, topBit m ≤ 7 := by decide

/-- Q holds the quad it was given (R13). -/
theorem quad_setQuad (q : Quad) (s : State) : (s.setQuad q).quad = q := by
  have e : ∀ a b c d : Byte, (a ++ b ++ c ++ d : Word).toNat =
      a.toNat * 2 ^ 24 + b.toNat * 2 ^ 16 + c.toNat * 2 ^ 8 + d.toNat := by
    intro a b c d
    refine (append_toNat (a ++ b ++ c) d).trans ?_
    rw [append_toNat (a ++ b) c, append_toNat a b]
    ring
  have hr := q.r.isLt
  have hg := q.g.isLt
  have hb := q.b.isLt
  have he := q.e.isLt
  have hw := e q.r q.g q.b q.e
  obtain ⟨r, g, b, x⟩ := q
  simp only [State.quad, State.setQuad, Quad.word] at *
  congr 1 <;> apply BitVec.eq_of_toNat_eq <;> rw [extract_toNat, hw] <;> omega

end Sys2Proof.Machine
end

