-- ==== Sys2Proof/Laws/Decode.lean ====
section
/-! SUPPORT. What the two command formats and the control bytes decode to. -/

namespace Sys2Proof

/-- Format Z accepts a word whose bits 23:0 are 0 and nothing else (R60, R63). -/
theorem decodeZ_ok (w : Word) (i j : Instr) : decodeZ w i = .ok j ↔ w.extractLsb' 0 24 = 0#24 ∧ j = i := by
  unfold decodeZ
  split <;> rename_i h <;> simp only [h, Except.ok.injEq, true_and, false_and, reduceCtorEq, eq_comm]

/-- Format K accepts a word whose bits 23:2 are 0 and hands on `k = word[1:0]` (R60, R62, R63). -/
theorem decodeK_ok (w : Word) (i : BitVec 2 → Instr) (j : Instr) :
    decodeK w i = .ok j ↔ w.extractLsb' 2 22 = 0#22 ∧ j = i (w.extractLsb' 0 2) := by
  unfold decodeK commandPlane
  split <;> rename_i h <;> simp only [h, Except.ok.injEq, true_and, false_and, reduceCtorEq, eq_comm]

/-- `op = word[31:24]` as a bit field and as a number. -/
theorem commandOp_eq (w : Word) {n : Nat} (h : n < 256) :
    (commandOp w).toNat = n ↔ w.extractLsb' 24 8 = BitVec.ofNat 8 n := by
  rw [commandOp, ← BitVec.toNat_inj, BitVec.toNat_ofNat, Nat.mod_eq_of_lt (by omega)]

/-- A control byte decodes to a well-formed run token (R66, R72 (a)). -/
theorem decodeControl_wellFormed : ∀ c : Byte, (decodeControl c).wellFormed = true := by decide

/-- A control byte is the encoding of the token it decodes to: no two tokens share a byte. -/
theorem encode_decodeControl : ∀ c : Byte, encode (decodeControl c) = .control c := by decide

end Sys2Proof
end

