-- ==== Sys2Proof/Laws/State.lean ====
section
/-! SUPPORT. What each named update of State does to each field: one lemma per field per update, true by `rfl`, so that no
later proof unfolds a record update. -/

namespace Sys2Proof.Machine

/-! ### `State.setErr` -/

@[simp] theorem State.setErr_f0 (c : BitVec 4) (s : State) : (State.setErr c s).f0 = s.f0 := rfl
@[simp] theorem State.setErr_f1 (c : BitVec 4) (s : State) : (State.setErr c s).f1 = s.f1 := rfl
@[simp] theorem State.setErr_f2 (c : BitVec 4) (s : State) : (State.setErr c s).f2 = s.f2 := rfl
@[simp] theorem State.setErr_q (c : BitVec 4) (s : State) : (State.setErr c s).q = s.q := rfl
@[simp] theorem State.setErr_width (c : BitVec 4) (s : State) : (State.setErr c s).width = s.width := rfl
@[simp] theorem State.setErr_height (c : BitVec 4) (s : State) : (State.setErr c s).height = s.height := rfl
@[simp] theorem State.setErr_mode (c : BitVec 4) (s : State) : (State.setErr c s).mode = s.mode := rfl
@[simp] theorem State.setErr_px (c : BitVec 4) (s : State) : (State.setErr c s).px = s.px := rfl
@[simp] theorem State.setErr_py (c : BitVec 4) (s : State) : (State.setErr c s).py = s.py := rfl
@[simp] theorem State.setErr_ycnt (c : BitVec 4) (s : State) : (State.setErr c s).ycnt = s.ycnt := rfl
@[simp] theorem State.setErr_spos (c : BitVec 4) (s : State) : (State.setErr c s).spos = s.spos := rfl
@[simp] theorem State.setErr_slen (c : BitVec 4) (s : State) : (State.setErr c s).slen = s.slen := rfl
@[simp] theorem State.setErr_status (c : BitVec 4) (s : State) : (State.setErr c s).status = (s.status &&& 0xFFFFFFF0#32) ||| c.setWidth 32 := rfl
@[simp] theorem State.setErr_ecmd (c : BitVec 4) (s : State) : (State.setErr c s).ecmd = s.ecmd := rfl
@[simp] theorem State.setErr_img (c : BitVec 4) (s : State) : (State.setErr c s).img = s.img := rfl
@[simp] theorem State.setErr_pln (c : BitVec 4) (s : State) : (State.setErr c s).pln = s.pln := rfl
@[simp] theorem State.setErr_str (c : BitVec 4) (s : State) : (State.setErr c s).str = s.str := rfl
@[simp] theorem State.setErr_cfg (c : BitVec 4) (s : State) : (State.setErr c s).cfg = s.cfg := rfl
@[simp] theorem State.setErr_powerOns (c : BitVec 4) (s : State) : (State.setErr c s).powerOns = s.powerOns := rfl
@[simp] theorem State.setErr_program (c : BitVec 4) (s : State) : (State.setErr c s).program = s.program := rfl
@[simp] theorem State.setErr_pc (c : BitVec 4) (s : State) : (State.setErr c s).pc = s.pc := rfl
@[simp] theorem State.setErr_readData (c : BitVec 4) (s : State) : (State.setErr c s).readData = s.readData := rfl
@[simp] theorem State.setErr_decoding (c : BitVec 4) (s : State) : (State.setErr c s).decoding = s.decoding := rfl

/-! ### `State.setStrat` -/

@[simp] theorem State.setStrat_f0 (b : Bool) (s : State) : (State.setStrat b s).f0 = s.f0 := rfl
@[simp] theorem State.setStrat_f1 (b : Bool) (s : State) : (State.setStrat b s).f1 = s.f1 := rfl
@[simp] theorem State.setStrat_f2 (b : Bool) (s : State) : (State.setStrat b s).f2 = s.f2 := rfl
@[simp] theorem State.setStrat_q (b : Bool) (s : State) : (State.setStrat b s).q = s.q := rfl
@[simp] theorem State.setStrat_width (b : Bool) (s : State) : (State.setStrat b s).width = s.width := rfl
@[simp] theorem State.setStrat_height (b : Bool) (s : State) : (State.setStrat b s).height = s.height := rfl
@[simp] theorem State.setStrat_mode (b : Bool) (s : State) : (State.setStrat b s).mode = s.mode := rfl
@[simp] theorem State.setStrat_px (b : Bool) (s : State) : (State.setStrat b s).px = s.px := rfl
@[simp] theorem State.setStrat_py (b : Bool) (s : State) : (State.setStrat b s).py = s.py := rfl
@[simp] theorem State.setStrat_ycnt (b : Bool) (s : State) : (State.setStrat b s).ycnt = s.ycnt := rfl
@[simp] theorem State.setStrat_spos (b : Bool) (s : State) : (State.setStrat b s).spos = s.spos := rfl
@[simp] theorem State.setStrat_slen (b : Bool) (s : State) : (State.setStrat b s).slen = s.slen := rfl
@[simp] theorem State.setStrat_status (b : Bool) (s : State) : (State.setStrat b s).status = (s.status &&& 0xFFFFFFEF#32) ||| (if b then 0x10#32 else 0#32) := rfl
@[simp] theorem State.setStrat_ecmd (b : Bool) (s : State) : (State.setStrat b s).ecmd = s.ecmd := rfl
@[simp] theorem State.setStrat_img (b : Bool) (s : State) : (State.setStrat b s).img = s.img := rfl
@[simp] theorem State.setStrat_pln (b : Bool) (s : State) : (State.setStrat b s).pln = s.pln := rfl
@[simp] theorem State.setStrat_str (b : Bool) (s : State) : (State.setStrat b s).str = s.str := rfl
@[simp] theorem State.setStrat_cfg (b : Bool) (s : State) : (State.setStrat b s).cfg = s.cfg := rfl
@[simp] theorem State.setStrat_powerOns (b : Bool) (s : State) : (State.setStrat b s).powerOns = s.powerOns := rfl
@[simp] theorem State.setStrat_program (b : Bool) (s : State) : (State.setStrat b s).program = s.program := rfl
@[simp] theorem State.setStrat_pc (b : Bool) (s : State) : (State.setStrat b s).pc = s.pc := rfl
@[simp] theorem State.setStrat_readData (b : Bool) (s : State) : (State.setStrat b s).readData = s.readData := rfl
@[simp] theorem State.setStrat_decoding (b : Bool) (s : State) : (State.setStrat b s).decoding = s.decoding := rfl

/-! ### `State.writeImg` -/

@[simp] theorem State.writeImg_f0 (a : Nat) (v : Word) (s : State) : (State.writeImg a v s).f0 = s.f0 := rfl
@[simp] theorem State.writeImg_f1 (a : Nat) (v : Word) (s : State) : (State.writeImg a v s).f1 = s.f1 := rfl
@[simp] theorem State.writeImg_f2 (a : Nat) (v : Word) (s : State) : (State.writeImg a v s).f2 = s.f2 := rfl
@[simp] theorem State.writeImg_q (a : Nat) (v : Word) (s : State) : (State.writeImg a v s).q = s.q := rfl
@[simp] theorem State.writeImg_width (a : Nat) (v : Word) (s : State) : (State.writeImg a v s).width = s.width := rfl
@[simp] theorem State.writeImg_height (a : Nat) (v : Word) (s : State) : (State.writeImg a v s).height = s.height := rfl
@[simp] theorem State.writeImg_mode (a : Nat) (v : Word) (s : State) : (State.writeImg a v s).mode = s.mode := rfl
@[simp] theorem State.writeImg_px (a : Nat) (v : Word) (s : State) : (State.writeImg a v s).px = s.px := rfl
@[simp] theorem State.writeImg_py (a : Nat) (v : Word) (s : State) : (State.writeImg a v s).py = s.py := rfl
@[simp] theorem State.writeImg_ycnt (a : Nat) (v : Word) (s : State) : (State.writeImg a v s).ycnt = s.ycnt := rfl
@[simp] theorem State.writeImg_spos (a : Nat) (v : Word) (s : State) : (State.writeImg a v s).spos = s.spos := rfl
@[simp] theorem State.writeImg_slen (a : Nat) (v : Word) (s : State) : (State.writeImg a v s).slen = s.slen := rfl
@[simp] theorem State.writeImg_status (a : Nat) (v : Word) (s : State) : (State.writeImg a v s).status = s.status := rfl
@[simp] theorem State.writeImg_ecmd (a : Nat) (v : Word) (s : State) : (State.writeImg a v s).ecmd = s.ecmd := rfl
@[simp] theorem State.writeImg_img (a : Nat) (v : Word) (s : State) : (State.writeImg a v s).img = Memory.store s.img a v := rfl
@[simp] theorem State.writeImg_pln (a : Nat) (v : Word) (s : State) : (State.writeImg a v s).pln = s.pln := rfl
@[simp] theorem State.writeImg_str (a : Nat) (v : Word) (s : State) : (State.writeImg a v s).str = s.str := rfl
@[simp] theorem State.writeImg_cfg (a : Nat) (v : Word) (s : State) : (State.writeImg a v s).cfg = s.cfg := rfl
@[simp] theorem State.writeImg_powerOns (a : Nat) (v : Word) (s : State) : (State.writeImg a v s).powerOns = s.powerOns := rfl
@[simp] theorem State.writeImg_program (a : Nat) (v : Word) (s : State) : (State.writeImg a v s).program = s.program := rfl
@[simp] theorem State.writeImg_pc (a : Nat) (v : Word) (s : State) : (State.writeImg a v s).pc = s.pc := rfl
@[simp] theorem State.writeImg_readData (a : Nat) (v : Word) (s : State) : (State.writeImg a v s).readData = s.readData := rfl
@[simp] theorem State.writeImg_decoding (a : Nat) (v : Word) (s : State) : (State.writeImg a v s).decoding = s.decoding := rfl

/-! ### `State.writePln` -/

@[simp] theorem State.writePln_f0 (a : Nat) (v : Byte) (s : State) : (State.writePln a v s).f0 = s.f0 := rfl
@[simp] theorem State.writePln_f1 (a : Nat) (v : Byte) (s : State) : (State.writePln a v s).f1 = s.f1 := rfl
@[simp] theorem State.writePln_f2 (a : Nat) (v : Byte) (s : State) : (State.writePln a v s).f2 = s.f2 := rfl
@[simp] theorem State.writePln_q (a : Nat) (v : Byte) (s : State) : (State.writePln a v s).q = s.q := rfl
@[simp] theorem State.writePln_width (a : Nat) (v : Byte) (s : State) : (State.writePln a v s).width = s.width := rfl
@[simp] theorem State.writePln_height (a : Nat) (v : Byte) (s : State) : (State.writePln a v s).height = s.height := rfl
@[simp] theorem State.writePln_mode (a : Nat) (v : Byte) (s : State) : (State.writePln a v s).mode = s.mode := rfl
@[simp] theorem State.writePln_px (a : Nat) (v : Byte) (s : State) : (State.writePln a v s).px = s.px := rfl
@[simp] theorem State.writePln_py (a : Nat) (v : Byte) (s : State) : (State.writePln a v s).py = s.py := rfl
@[simp] theorem State.writePln_ycnt (a : Nat) (v : Byte) (s : State) : (State.writePln a v s).ycnt = s.ycnt := rfl
@[simp] theorem State.writePln_spos (a : Nat) (v : Byte) (s : State) : (State.writePln a v s).spos = s.spos := rfl
@[simp] theorem State.writePln_slen (a : Nat) (v : Byte) (s : State) : (State.writePln a v s).slen = s.slen := rfl
@[simp] theorem State.writePln_status (a : Nat) (v : Byte) (s : State) : (State.writePln a v s).status = s.status := rfl
@[simp] theorem State.writePln_ecmd (a : Nat) (v : Byte) (s : State) : (State.writePln a v s).ecmd = s.ecmd := rfl
@[simp] theorem State.writePln_img (a : Nat) (v : Byte) (s : State) : (State.writePln a v s).img = s.img := rfl
@[simp] theorem State.writePln_pln (a : Nat) (v : Byte) (s : State) : (State.writePln a v s).pln = Memory.store s.pln a v := rfl
@[simp] theorem State.writePln_str (a : Nat) (v : Byte) (s : State) : (State.writePln a v s).str = s.str := rfl
@[simp] theorem State.writePln_cfg (a : Nat) (v : Byte) (s : State) : (State.writePln a v s).cfg = s.cfg := rfl
@[simp] theorem State.writePln_powerOns (a : Nat) (v : Byte) (s : State) : (State.writePln a v s).powerOns = s.powerOns := rfl
@[simp] theorem State.writePln_program (a : Nat) (v : Byte) (s : State) : (State.writePln a v s).program = s.program := rfl
@[simp] theorem State.writePln_pc (a : Nat) (v : Byte) (s : State) : (State.writePln a v s).pc = s.pc := rfl
@[simp] theorem State.writePln_readData (a : Nat) (v : Byte) (s : State) : (State.writePln a v s).readData = s.readData := rfl
@[simp] theorem State.writePln_decoding (a : Nat) (v : Byte) (s : State) : (State.writePln a v s).decoding = s.decoding := rfl

/-! ### `State.writeStr` -/

@[simp] theorem State.writeStr_f0 (a : Nat) (v : Byte) (s : State) : (State.writeStr a v s).f0 = s.f0 := rfl
@[simp] theorem State.writeStr_f1 (a : Nat) (v : Byte) (s : State) : (State.writeStr a v s).f1 = s.f1 := rfl
@[simp] theorem State.writeStr_f2 (a : Nat) (v : Byte) (s : State) : (State.writeStr a v s).f2 = s.f2 := rfl
@[simp] theorem State.writeStr_q (a : Nat) (v : Byte) (s : State) : (State.writeStr a v s).q = s.q := rfl
@[simp] theorem State.writeStr_width (a : Nat) (v : Byte) (s : State) : (State.writeStr a v s).width = s.width := rfl
@[simp] theorem State.writeStr_height (a : Nat) (v : Byte) (s : State) : (State.writeStr a v s).height = s.height := rfl
@[simp] theorem State.writeStr_mode (a : Nat) (v : Byte) (s : State) : (State.writeStr a v s).mode = s.mode := rfl
@[simp] theorem State.writeStr_px (a : Nat) (v : Byte) (s : State) : (State.writeStr a v s).px = s.px := rfl
@[simp] theorem State.writeStr_py (a : Nat) (v : Byte) (s : State) : (State.writeStr a v s).py = s.py := rfl
@[simp] theorem State.writeStr_ycnt (a : Nat) (v : Byte) (s : State) : (State.writeStr a v s).ycnt = s.ycnt := rfl
@[simp] theorem State.writeStr_spos (a : Nat) (v : Byte) (s : State) : (State.writeStr a v s).spos = s.spos := rfl
@[simp] theorem State.writeStr_slen (a : Nat) (v : Byte) (s : State) : (State.writeStr a v s).slen = s.slen := rfl
@[simp] theorem State.writeStr_status (a : Nat) (v : Byte) (s : State) : (State.writeStr a v s).status = s.status := rfl
@[simp] theorem State.writeStr_ecmd (a : Nat) (v : Byte) (s : State) : (State.writeStr a v s).ecmd = s.ecmd := rfl
@[simp] theorem State.writeStr_img (a : Nat) (v : Byte) (s : State) : (State.writeStr a v s).img = s.img := rfl
@[simp] theorem State.writeStr_pln (a : Nat) (v : Byte) (s : State) : (State.writeStr a v s).pln = s.pln := rfl
@[simp] theorem State.writeStr_str (a : Nat) (v : Byte) (s : State) : (State.writeStr a v s).str = Memory.store s.str a v := rfl
@[simp] theorem State.writeStr_cfg (a : Nat) (v : Byte) (s : State) : (State.writeStr a v s).cfg = s.cfg := rfl
@[simp] theorem State.writeStr_powerOns (a : Nat) (v : Byte) (s : State) : (State.writeStr a v s).powerOns = s.powerOns := rfl
@[simp] theorem State.writeStr_program (a : Nat) (v : Byte) (s : State) : (State.writeStr a v s).program = s.program := rfl
@[simp] theorem State.writeStr_pc (a : Nat) (v : Byte) (s : State) : (State.writeStr a v s).pc = s.pc := rfl
@[simp] theorem State.writeStr_readData (a : Nat) (v : Byte) (s : State) : (State.writeStr a v s).readData = s.readData := rfl
@[simp] theorem State.writeStr_decoding (a : Nat) (v : Byte) (s : State) : (State.writeStr a v s).decoding = s.decoding := rfl

/-! ### `State.pushByte` -/

@[simp] theorem State.pushByte_f0 (b : Byte) (s : State) : (State.pushByte b s).f0 = s.f0 := rfl
@[simp] theorem State.pushByte_f1 (b : Byte) (s : State) : (State.pushByte b s).f1 = s.f1 := rfl
@[simp] theorem State.pushByte_f2 (b : Byte) (s : State) : (State.pushByte b s).f2 = s.f2 := rfl
@[simp] theorem State.pushByte_q (b : Byte) (s : State) : (State.pushByte b s).q = s.q := rfl
@[simp] theorem State.pushByte_width (b : Byte) (s : State) : (State.pushByte b s).width = s.width := rfl
@[simp] theorem State.pushByte_height (b : Byte) (s : State) : (State.pushByte b s).height = s.height := rfl
@[simp] theorem State.pushByte_mode (b : Byte) (s : State) : (State.pushByte b s).mode = s.mode := rfl
@[simp] theorem State.pushByte_px (b : Byte) (s : State) : (State.pushByte b s).px = s.px := rfl
@[simp] theorem State.pushByte_py (b : Byte) (s : State) : (State.pushByte b s).py = s.py := rfl
@[simp] theorem State.pushByte_ycnt (b : Byte) (s : State) : (State.pushByte b s).ycnt = s.ycnt := rfl
@[simp] theorem State.pushByte_spos (b : Byte) (s : State) : (State.pushByte b s).spos = s.spos + 1#32 := rfl
@[simp] theorem State.pushByte_slen (b : Byte) (s : State) : (State.pushByte b s).slen = if s.slen.toNat < s.spos.toNat + 1 then s.spos + 1#32 else s.slen := rfl
@[simp] theorem State.pushByte_status (b : Byte) (s : State) : (State.pushByte b s).status = s.status := rfl
@[simp] theorem State.pushByte_ecmd (b : Byte) (s : State) : (State.pushByte b s).ecmd = s.ecmd := rfl
@[simp] theorem State.pushByte_img (b : Byte) (s : State) : (State.pushByte b s).img = s.img := rfl
@[simp] theorem State.pushByte_pln (b : Byte) (s : State) : (State.pushByte b s).pln = s.pln := rfl
@[simp] theorem State.pushByte_str (b : Byte) (s : State) : (State.pushByte b s).str = Memory.store s.str s.spos.toNat b := rfl
@[simp] theorem State.pushByte_cfg (b : Byte) (s : State) : (State.pushByte b s).cfg = s.cfg := rfl
@[simp] theorem State.pushByte_powerOns (b : Byte) (s : State) : (State.pushByte b s).powerOns = s.powerOns := rfl
@[simp] theorem State.pushByte_program (b : Byte) (s : State) : (State.pushByte b s).program = s.program := rfl
@[simp] theorem State.pushByte_pc (b : Byte) (s : State) : (State.pushByte b s).pc = s.pc := rfl
@[simp] theorem State.pushByte_readData (b : Byte) (s : State) : (State.pushByte b s).readData = s.readData := rfl
@[simp] theorem State.pushByte_decoding (b : Byte) (s : State) : (State.pushByte b s).decoding = s.decoding := rfl

/-! ### `State.enterFault` -/

@[simp] theorem State.enterFault_f0 (f : FaultCode) (w : Word) (s : State) : (State.enterFault f w s).f0 = s.f0 := rfl
@[simp] theorem State.enterFault_f1 (f : FaultCode) (w : Word) (s : State) : (State.enterFault f w s).f1 = s.f1 := rfl
@[simp] theorem State.enterFault_f2 (f : FaultCode) (w : Word) (s : State) : (State.enterFault f w s).f2 = s.f2 := rfl
@[simp] theorem State.enterFault_q (f : FaultCode) (w : Word) (s : State) : (State.enterFault f w s).q = s.q := rfl
@[simp] theorem State.enterFault_width (f : FaultCode) (w : Word) (s : State) : (State.enterFault f w s).width = s.width := rfl
@[simp] theorem State.enterFault_height (f : FaultCode) (w : Word) (s : State) : (State.enterFault f w s).height = s.height := rfl
@[simp] theorem State.enterFault_mode (f : FaultCode) (w : Word) (s : State) : (State.enterFault f w s).mode = s.mode := rfl
@[simp] theorem State.enterFault_px (f : FaultCode) (w : Word) (s : State) : (State.enterFault f w s).px = s.px := rfl
@[simp] theorem State.enterFault_py (f : FaultCode) (w : Word) (s : State) : (State.enterFault f w s).py = s.py := rfl
@[simp] theorem State.enterFault_ycnt (f : FaultCode) (w : Word) (s : State) : (State.enterFault f w s).ycnt = s.ycnt := rfl
@[simp] theorem State.enterFault_spos (f : FaultCode) (w : Word) (s : State) : (State.enterFault f w s).spos = s.spos := rfl
@[simp] theorem State.enterFault_slen (f : FaultCode) (w : Word) (s : State) : (State.enterFault f w s).slen = s.slen := rfl
@[simp] theorem State.enterFault_status (f : FaultCode) (w : Word) (s : State) : (State.enterFault f w s).status = (s.setErr f.code).status := rfl
@[simp] theorem State.enterFault_ecmd (f : FaultCode) (w : Word) (s : State) : (State.enterFault f w s).ecmd = w := rfl
@[simp] theorem State.enterFault_img (f : FaultCode) (w : Word) (s : State) : (State.enterFault f w s).img = s.img := rfl
@[simp] theorem State.enterFault_pln (f : FaultCode) (w : Word) (s : State) : (State.enterFault f w s).pln = s.pln := rfl
@[simp] theorem State.enterFault_str (f : FaultCode) (w : Word) (s : State) : (State.enterFault f w s).str = s.str := rfl
@[simp] theorem State.enterFault_cfg (f : FaultCode) (w : Word) (s : State) : (State.enterFault f w s).cfg = s.cfg := rfl
@[simp] theorem State.enterFault_powerOns (f : FaultCode) (w : Word) (s : State) : (State.enterFault f w s).powerOns = s.powerOns := rfl
@[simp] theorem State.enterFault_program (f : FaultCode) (w : Word) (s : State) : (State.enterFault f w s).program = s.program := rfl
@[simp] theorem State.enterFault_pc (f : FaultCode) (w : Word) (s : State) : (State.enterFault f w s).pc = s.pc := rfl
@[simp] theorem State.enterFault_readData (f : FaultCode) (w : Word) (s : State) : (State.enterFault f w s).readData = s.readData := rfl
@[simp] theorem State.enterFault_decoding (f : FaultCode) (w : Word) (s : State) : (State.enterFault f w s).decoding = none := rfl

/-! ### `State.softReset` -/

@[simp] theorem State.softReset_f0 (s : State) : (State.softReset s).f0 = 0#32 := rfl
@[simp] theorem State.softReset_f1 (s : State) : (State.softReset s).f1 = 0#32 := rfl
@[simp] theorem State.softReset_f2 (s : State) : (State.softReset s).f2 = 0#32 := rfl
@[simp] theorem State.softReset_q (s : State) : (State.softReset s).q = 0#32 := rfl
@[simp] theorem State.softReset_width (s : State) : (State.softReset s).width = 0#32 := rfl
@[simp] theorem State.softReset_height (s : State) : (State.softReset s).height = 0#32 := rfl
@[simp] theorem State.softReset_mode (s : State) : (State.softReset s).mode = 0#32 := rfl
@[simp] theorem State.softReset_px (s : State) : (State.softReset s).px = 0#32 := rfl
@[simp] theorem State.softReset_py (s : State) : (State.softReset s).py = 0#32 := rfl
@[simp] theorem State.softReset_ycnt (s : State) : (State.softReset s).ycnt = 0#32 := rfl
@[simp] theorem State.softReset_spos (s : State) : (State.softReset s).spos = 0#32 := rfl
@[simp] theorem State.softReset_slen (s : State) : (State.softReset s).slen = 0#32 := rfl
@[simp] theorem State.softReset_status (s : State) : (State.softReset s).status = 0#32 := rfl
@[simp] theorem State.softReset_ecmd (s : State) : (State.softReset s).ecmd = 0#32 := rfl
@[simp] theorem State.softReset_img (s : State) : (State.softReset s).img = s.img := rfl
@[simp] theorem State.softReset_pln (s : State) : (State.softReset s).pln = s.pln := rfl
@[simp] theorem State.softReset_str (s : State) : (State.softReset s).str = s.str := rfl
@[simp] theorem State.softReset_cfg (s : State) : (State.softReset s).cfg = s.cfg := rfl
@[simp] theorem State.softReset_powerOns (s : State) : (State.softReset s).powerOns = s.powerOns := rfl
@[simp] theorem State.softReset_program (s : State) : (State.softReset s).program = s.program := rfl
@[simp] theorem State.softReset_pc (s : State) : (State.softReset s).pc = s.pc := rfl
@[simp] theorem State.softReset_readData (s : State) : (State.softReset s).readData = s.readData := rfl
@[simp] theorem State.softReset_decoding (s : State) : (State.softReset s).decoding = s.decoding := rfl

/-! ### `State.setQuad` -/

@[simp] theorem State.setQuad_f0 (q : Quad) (s : State) : (State.setQuad q s).f0 = s.f0 := rfl
@[simp] theorem State.setQuad_f1 (q : Quad) (s : State) : (State.setQuad q s).f1 = s.f1 := rfl
@[simp] theorem State.setQuad_f2 (q : Quad) (s : State) : (State.setQuad q s).f2 = s.f2 := rfl
@[simp] theorem State.setQuad_q (q : Quad) (s : State) : (State.setQuad q s).q = q.word := rfl
@[simp] theorem State.setQuad_width (q : Quad) (s : State) : (State.setQuad q s).width = s.width := rfl
@[simp] theorem State.setQuad_height (q : Quad) (s : State) : (State.setQuad q s).height = s.height := rfl
@[simp] theorem State.setQuad_mode (q : Quad) (s : State) : (State.setQuad q s).mode = s.mode := rfl
@[simp] theorem State.setQuad_px (q : Quad) (s : State) : (State.setQuad q s).px = s.px := rfl
@[simp] theorem State.setQuad_py (q : Quad) (s : State) : (State.setQuad q s).py = s.py := rfl
@[simp] theorem State.setQuad_ycnt (q : Quad) (s : State) : (State.setQuad q s).ycnt = s.ycnt := rfl
@[simp] theorem State.setQuad_spos (q : Quad) (s : State) : (State.setQuad q s).spos = s.spos := rfl
@[simp] theorem State.setQuad_slen (q : Quad) (s : State) : (State.setQuad q s).slen = s.slen := rfl
@[simp] theorem State.setQuad_status (q : Quad) (s : State) : (State.setQuad q s).status = s.status := rfl
@[simp] theorem State.setQuad_ecmd (q : Quad) (s : State) : (State.setQuad q s).ecmd = s.ecmd := rfl
@[simp] theorem State.setQuad_img (q : Quad) (s : State) : (State.setQuad q s).img = s.img := rfl
@[simp] theorem State.setQuad_pln (q : Quad) (s : State) : (State.setQuad q s).pln = s.pln := rfl
@[simp] theorem State.setQuad_str (q : Quad) (s : State) : (State.setQuad q s).str = s.str := rfl
@[simp] theorem State.setQuad_cfg (q : Quad) (s : State) : (State.setQuad q s).cfg = s.cfg := rfl
@[simp] theorem State.setQuad_powerOns (q : Quad) (s : State) : (State.setQuad q s).powerOns = s.powerOns := rfl
@[simp] theorem State.setQuad_program (q : Quad) (s : State) : (State.setQuad q s).program = s.program := rfl
@[simp] theorem State.setQuad_pc (q : Quad) (s : State) : (State.setQuad q s).pc = s.pc := rfl
@[simp] theorem State.setQuad_readData (q : Quad) (s : State) : (State.setQuad q s).readData = s.readData := rfl
@[simp] theorem State.setQuad_decoding (q : Quad) (s : State) : (State.setQuad q s).decoding = s.decoding := rfl

/-! ### `State.setFloats` -/

@[simp] theorem State.setFloats_f0 (v0 v1 v2 : Word) (s : State) : (State.setFloats v0 v1 v2 s).f0 = v0 := rfl
@[simp] theorem State.setFloats_f1 (v0 v1 v2 : Word) (s : State) : (State.setFloats v0 v1 v2 s).f1 = v1 := rfl
@[simp] theorem State.setFloats_f2 (v0 v1 v2 : Word) (s : State) : (State.setFloats v0 v1 v2 s).f2 = v2 := rfl
@[simp] theorem State.setFloats_q (v0 v1 v2 : Word) (s : State) : (State.setFloats v0 v1 v2 s).q = s.q := rfl
@[simp] theorem State.setFloats_width (v0 v1 v2 : Word) (s : State) : (State.setFloats v0 v1 v2 s).width = s.width := rfl
@[simp] theorem State.setFloats_height (v0 v1 v2 : Word) (s : State) : (State.setFloats v0 v1 v2 s).height = s.height := rfl
@[simp] theorem State.setFloats_mode (v0 v1 v2 : Word) (s : State) : (State.setFloats v0 v1 v2 s).mode = s.mode := rfl
@[simp] theorem State.setFloats_px (v0 v1 v2 : Word) (s : State) : (State.setFloats v0 v1 v2 s).px = s.px := rfl
@[simp] theorem State.setFloats_py (v0 v1 v2 : Word) (s : State) : (State.setFloats v0 v1 v2 s).py = s.py := rfl
@[simp] theorem State.setFloats_ycnt (v0 v1 v2 : Word) (s : State) : (State.setFloats v0 v1 v2 s).ycnt = s.ycnt := rfl
@[simp] theorem State.setFloats_spos (v0 v1 v2 : Word) (s : State) : (State.setFloats v0 v1 v2 s).spos = s.spos := rfl
@[simp] theorem State.setFloats_slen (v0 v1 v2 : Word) (s : State) : (State.setFloats v0 v1 v2 s).slen = s.slen := rfl
@[simp] theorem State.setFloats_status (v0 v1 v2 : Word) (s : State) : (State.setFloats v0 v1 v2 s).status = s.status := rfl
@[simp] theorem State.setFloats_ecmd (v0 v1 v2 : Word) (s : State) : (State.setFloats v0 v1 v2 s).ecmd = s.ecmd := rfl
@[simp] theorem State.setFloats_img (v0 v1 v2 : Word) (s : State) : (State.setFloats v0 v1 v2 s).img = s.img := rfl
@[simp] theorem State.setFloats_pln (v0 v1 v2 : Word) (s : State) : (State.setFloats v0 v1 v2 s).pln = s.pln := rfl
@[simp] theorem State.setFloats_str (v0 v1 v2 : Word) (s : State) : (State.setFloats v0 v1 v2 s).str = s.str := rfl
@[simp] theorem State.setFloats_cfg (v0 v1 v2 : Word) (s : State) : (State.setFloats v0 v1 v2 s).cfg = s.cfg := rfl
@[simp] theorem State.setFloats_powerOns (v0 v1 v2 : Word) (s : State) : (State.setFloats v0 v1 v2 s).powerOns = s.powerOns := rfl
@[simp] theorem State.setFloats_program (v0 v1 v2 : Word) (s : State) : (State.setFloats v0 v1 v2 s).program = s.program := rfl
@[simp] theorem State.setFloats_pc (v0 v1 v2 : Word) (s : State) : (State.setFloats v0 v1 v2 s).pc = s.pc := rfl
@[simp] theorem State.setFloats_readData (v0 v1 v2 : Word) (s : State) : (State.setFloats v0 v1 v2 s).readData = s.readData := rfl
@[simp] theorem State.setFloats_decoding (v0 v1 v2 : Word) (s : State) : (State.setFloats v0 v1 v2 s).decoding = s.decoding := rfl

/-! ### `State.setDimensions` -/

@[simp] theorem State.setDimensions_f0 (h w : Word) (s : State) : (State.setDimensions h w s).f0 = s.f0 := rfl
@[simp] theorem State.setDimensions_f1 (h w : Word) (s : State) : (State.setDimensions h w s).f1 = s.f1 := rfl
@[simp] theorem State.setDimensions_f2 (h w : Word) (s : State) : (State.setDimensions h w s).f2 = s.f2 := rfl
@[simp] theorem State.setDimensions_q (h w : Word) (s : State) : (State.setDimensions h w s).q = s.q := rfl
@[simp] theorem State.setDimensions_width (h w : Word) (s : State) : (State.setDimensions h w s).width = w := rfl
@[simp] theorem State.setDimensions_height (h w : Word) (s : State) : (State.setDimensions h w s).height = h := rfl
@[simp] theorem State.setDimensions_mode (h w : Word) (s : State) : (State.setDimensions h w s).mode = s.mode := rfl
@[simp] theorem State.setDimensions_px (h w : Word) (s : State) : (State.setDimensions h w s).px = s.px := rfl
@[simp] theorem State.setDimensions_py (h w : Word) (s : State) : (State.setDimensions h w s).py = s.py := rfl
@[simp] theorem State.setDimensions_ycnt (h w : Word) (s : State) : (State.setDimensions h w s).ycnt = s.ycnt := rfl
@[simp] theorem State.setDimensions_spos (h w : Word) (s : State) : (State.setDimensions h w s).spos = s.spos := rfl
@[simp] theorem State.setDimensions_slen (h w : Word) (s : State) : (State.setDimensions h w s).slen = s.slen := rfl
@[simp] theorem State.setDimensions_status (h w : Word) (s : State) : (State.setDimensions h w s).status = s.status := rfl
@[simp] theorem State.setDimensions_ecmd (h w : Word) (s : State) : (State.setDimensions h w s).ecmd = s.ecmd := rfl
@[simp] theorem State.setDimensions_img (h w : Word) (s : State) : (State.setDimensions h w s).img = s.img := rfl
@[simp] theorem State.setDimensions_pln (h w : Word) (s : State) : (State.setDimensions h w s).pln = s.pln := rfl
@[simp] theorem State.setDimensions_str (h w : Word) (s : State) : (State.setDimensions h w s).str = s.str := rfl
@[simp] theorem State.setDimensions_cfg (h w : Word) (s : State) : (State.setDimensions h w s).cfg = s.cfg := rfl
@[simp] theorem State.setDimensions_powerOns (h w : Word) (s : State) : (State.setDimensions h w s).powerOns = s.powerOns := rfl
@[simp] theorem State.setDimensions_program (h w : Word) (s : State) : (State.setDimensions h w s).program = s.program := rfl
@[simp] theorem State.setDimensions_pc (h w : Word) (s : State) : (State.setDimensions h w s).pc = s.pc := rfl
@[simp] theorem State.setDimensions_readData (h w : Word) (s : State) : (State.setDimensions h w s).readData = s.readData := rfl
@[simp] theorem State.setDimensions_decoding (h w : Word) (s : State) : (State.setDimensions h w s).decoding = s.decoding := rfl

/-! ### `State.firstScan` -/

@[simp] theorem State.firstScan_f0 (s : State) : (State.firstScan s).f0 = s.f0 := rfl
@[simp] theorem State.firstScan_f1 (s : State) : (State.firstScan s).f1 = s.f1 := rfl
@[simp] theorem State.firstScan_f2 (s : State) : (State.firstScan s).f2 = s.f2 := rfl
@[simp] theorem State.firstScan_q (s : State) : (State.firstScan s).q = s.q := rfl
@[simp] theorem State.firstScan_width (s : State) : (State.firstScan s).width = s.width := rfl
@[simp] theorem State.firstScan_height (s : State) : (State.firstScan s).height = s.height := rfl
@[simp] theorem State.firstScan_mode (s : State) : (State.firstScan s).mode = s.mode := rfl
@[simp] theorem State.firstScan_px (s : State) : (State.firstScan s).px = s.px := rfl
@[simp] theorem State.firstScan_py (s : State) : (State.firstScan s).py = s.py := rfl
@[simp] theorem State.firstScan_ycnt (s : State) : (State.firstScan s).ycnt = 0#32 := rfl
@[simp] theorem State.firstScan_spos (s : State) : (State.firstScan s).spos = s.spos := rfl
@[simp] theorem State.firstScan_slen (s : State) : (State.firstScan s).slen = s.slen := rfl
@[simp] theorem State.firstScan_status (s : State) : (State.firstScan s).status = s.status := rfl
@[simp] theorem State.firstScan_ecmd (s : State) : (State.firstScan s).ecmd = s.ecmd := rfl
@[simp] theorem State.firstScan_img (s : State) : (State.firstScan s).img = s.img := rfl
@[simp] theorem State.firstScan_pln (s : State) : (State.firstScan s).pln = s.pln := rfl
@[simp] theorem State.firstScan_str (s : State) : (State.firstScan s).str = s.str := rfl
@[simp] theorem State.firstScan_cfg (s : State) : (State.firstScan s).cfg = s.cfg := rfl
@[simp] theorem State.firstScan_powerOns (s : State) : (State.firstScan s).powerOns = s.powerOns := rfl
@[simp] theorem State.firstScan_program (s : State) : (State.firstScan s).program = s.program := rfl
@[simp] theorem State.firstScan_pc (s : State) : (State.firstScan s).pc = s.pc := rfl
@[simp] theorem State.firstScan_readData (s : State) : (State.firstScan s).readData = s.readData := rfl
@[simp] theorem State.firstScan_decoding (s : State) : (State.firstScan s).decoding = s.decoding := rfl

/-! ### `State.endScan` -/

@[simp] theorem State.endScan_f0 (b : Bool) (s : State) : (State.endScan b s).f0 = s.f0 := rfl
@[simp] theorem State.endScan_f1 (b : Bool) (s : State) : (State.endScan b s).f1 = s.f1 := rfl
@[simp] theorem State.endScan_f2 (b : Bool) (s : State) : (State.endScan b s).f2 = s.f2 := rfl
@[simp] theorem State.endScan_q (b : Bool) (s : State) : (State.endScan b s).q = s.q := rfl
@[simp] theorem State.endScan_width (b : Bool) (s : State) : (State.endScan b s).width = s.width := rfl
@[simp] theorem State.endScan_height (b : Bool) (s : State) : (State.endScan b s).height = s.height := rfl
@[simp] theorem State.endScan_mode (b : Bool) (s : State) : (State.endScan b s).mode = s.mode := rfl
@[simp] theorem State.endScan_px (b : Bool) (s : State) : (State.endScan b s).px = s.px := rfl
@[simp] theorem State.endScan_py (b : Bool) (s : State) : (State.endScan b s).py = s.py := rfl
@[simp] theorem State.endScan_ycnt (b : Bool) (s : State) : (State.endScan b s).ycnt = s.ycnt + 1#32 := rfl
@[simp] theorem State.endScan_spos (b : Bool) (s : State) : (State.endScan b s).spos = s.spos := rfl
@[simp] theorem State.endScan_slen (b : Bool) (s : State) : (State.endScan b s).slen = s.slen := rfl
@[simp] theorem State.endScan_status (b : Bool) (s : State) : (State.endScan b s).status = (s.setStrat b).status := rfl
@[simp] theorem State.endScan_ecmd (b : Bool) (s : State) : (State.endScan b s).ecmd = s.ecmd := rfl
@[simp] theorem State.endScan_img (b : Bool) (s : State) : (State.endScan b s).img = s.img := rfl
@[simp] theorem State.endScan_pln (b : Bool) (s : State) : (State.endScan b s).pln = s.pln := rfl
@[simp] theorem State.endScan_str (b : Bool) (s : State) : (State.endScan b s).str = s.str := rfl
@[simp] theorem State.endScan_cfg (b : Bool) (s : State) : (State.endScan b s).cfg = s.cfg := rfl
@[simp] theorem State.endScan_powerOns (b : Bool) (s : State) : (State.endScan b s).powerOns = s.powerOns := rfl
@[simp] theorem State.endScan_program (b : Bool) (s : State) : (State.endScan b s).program = s.program := rfl
@[simp] theorem State.endScan_pc (b : Bool) (s : State) : (State.endScan b s).pc = s.pc := rfl
@[simp] theorem State.endScan_readData (b : Bool) (s : State) : (State.endScan b s).readData = s.readData := rfl
@[simp] theorem State.endScan_decoding (b : Bool) (s : State) : (State.endScan b s).decoding = s.decoding := rfl

/-! ### `State.decodeAt` -/

@[simp] theorem State.decodeAt_f0 (c : DecodeCommand) (p : DecodePhase) (s : State) : (State.decodeAt c p s).f0 = s.f0 := rfl
@[simp] theorem State.decodeAt_f1 (c : DecodeCommand) (p : DecodePhase) (s : State) : (State.decodeAt c p s).f1 = s.f1 := rfl
@[simp] theorem State.decodeAt_f2 (c : DecodeCommand) (p : DecodePhase) (s : State) : (State.decodeAt c p s).f2 = s.f2 := rfl
@[simp] theorem State.decodeAt_q (c : DecodeCommand) (p : DecodePhase) (s : State) : (State.decodeAt c p s).q = s.q := rfl
@[simp] theorem State.decodeAt_width (c : DecodeCommand) (p : DecodePhase) (s : State) : (State.decodeAt c p s).width = s.width := rfl
@[simp] theorem State.decodeAt_height (c : DecodeCommand) (p : DecodePhase) (s : State) : (State.decodeAt c p s).height = s.height := rfl
@[simp] theorem State.decodeAt_mode (c : DecodeCommand) (p : DecodePhase) (s : State) : (State.decodeAt c p s).mode = s.mode := rfl
@[simp] theorem State.decodeAt_px (c : DecodeCommand) (p : DecodePhase) (s : State) : (State.decodeAt c p s).px = s.px := rfl
@[simp] theorem State.decodeAt_py (c : DecodeCommand) (p : DecodePhase) (s : State) : (State.decodeAt c p s).py = s.py := rfl
@[simp] theorem State.decodeAt_ycnt (c : DecodeCommand) (p : DecodePhase) (s : State) : (State.decodeAt c p s).ycnt = s.ycnt := rfl
@[simp] theorem State.decodeAt_spos (c : DecodeCommand) (p : DecodePhase) (s : State) : (State.decodeAt c p s).spos = s.spos := rfl
@[simp] theorem State.decodeAt_slen (c : DecodeCommand) (p : DecodePhase) (s : State) : (State.decodeAt c p s).slen = s.slen := rfl
@[simp] theorem State.decodeAt_status (c : DecodeCommand) (p : DecodePhase) (s : State) : (State.decodeAt c p s).status = s.status := rfl
@[simp] theorem State.decodeAt_ecmd (c : DecodeCommand) (p : DecodePhase) (s : State) : (State.decodeAt c p s).ecmd = s.ecmd := rfl
@[simp] theorem State.decodeAt_img (c : DecodeCommand) (p : DecodePhase) (s : State) : (State.decodeAt c p s).img = s.img := rfl
@[simp] theorem State.decodeAt_pln (c : DecodeCommand) (p : DecodePhase) (s : State) : (State.decodeAt c p s).pln = s.pln := rfl
@[simp] theorem State.decodeAt_str (c : DecodeCommand) (p : DecodePhase) (s : State) : (State.decodeAt c p s).str = s.str := rfl
@[simp] theorem State.decodeAt_cfg (c : DecodeCommand) (p : DecodePhase) (s : State) : (State.decodeAt c p s).cfg = s.cfg := rfl
@[simp] theorem State.decodeAt_powerOns (c : DecodeCommand) (p : DecodePhase) (s : State) : (State.decodeAt c p s).powerOns = s.powerOns := rfl
@[simp] theorem State.decodeAt_program (c : DecodeCommand) (p : DecodePhase) (s : State) : (State.decodeAt c p s).program = s.program := rfl
@[simp] theorem State.decodeAt_pc (c : DecodeCommand) (p : DecodePhase) (s : State) : (State.decodeAt c p s).pc = s.pc := rfl
@[simp] theorem State.decodeAt_readData (c : DecodeCommand) (p : DecodePhase) (s : State) : (State.decodeAt c p s).readData = s.readData := rfl
@[simp] theorem State.decodeAt_decoding (c : DecodeCommand) (p : DecodePhase) (s : State) : (State.decodeAt c p s).decoding = some { command := c, phase := p } := rfl

/-! ### `State.decodeDone` -/

@[simp] theorem State.decodeDone_f0 (s : State) : (State.decodeDone s).f0 = s.f0 := rfl
@[simp] theorem State.decodeDone_f1 (s : State) : (State.decodeDone s).f1 = s.f1 := rfl
@[simp] theorem State.decodeDone_f2 (s : State) : (State.decodeDone s).f2 = s.f2 := rfl
@[simp] theorem State.decodeDone_q (s : State) : (State.decodeDone s).q = s.q := rfl
@[simp] theorem State.decodeDone_width (s : State) : (State.decodeDone s).width = s.width := rfl
@[simp] theorem State.decodeDone_height (s : State) : (State.decodeDone s).height = s.height := rfl
@[simp] theorem State.decodeDone_mode (s : State) : (State.decodeDone s).mode = s.mode := rfl
@[simp] theorem State.decodeDone_px (s : State) : (State.decodeDone s).px = s.px := rfl
@[simp] theorem State.decodeDone_py (s : State) : (State.decodeDone s).py = s.py := rfl
@[simp] theorem State.decodeDone_ycnt (s : State) : (State.decodeDone s).ycnt = s.ycnt := rfl
@[simp] theorem State.decodeDone_spos (s : State) : (State.decodeDone s).spos = s.spos := rfl
@[simp] theorem State.decodeDone_slen (s : State) : (State.decodeDone s).slen = s.slen := rfl
@[simp] theorem State.decodeDone_status (s : State) : (State.decodeDone s).status = s.status := rfl
@[simp] theorem State.decodeDone_ecmd (s : State) : (State.decodeDone s).ecmd = s.ecmd := rfl
@[simp] theorem State.decodeDone_img (s : State) : (State.decodeDone s).img = s.img := rfl
@[simp] theorem State.decodeDone_pln (s : State) : (State.decodeDone s).pln = s.pln := rfl
@[simp] theorem State.decodeDone_str (s : State) : (State.decodeDone s).str = s.str := rfl
@[simp] theorem State.decodeDone_cfg (s : State) : (State.decodeDone s).cfg = s.cfg := rfl
@[simp] theorem State.decodeDone_powerOns (s : State) : (State.decodeDone s).powerOns = s.powerOns := rfl
@[simp] theorem State.decodeDone_program (s : State) : (State.decodeDone s).program = s.program := rfl
@[simp] theorem State.decodeDone_pc (s : State) : (State.decodeDone s).pc = s.pc := rfl
@[simp] theorem State.decodeDone_readData (s : State) : (State.decodeDone s).readData = s.readData := rfl
@[simp] theorem State.decodeDone_decoding (s : State) : (State.decodeDone s).decoding = none := rfl

end Sys2Proof.Machine
end

