-- ==== Sys2Proof/Laws/Views.lean ====
section
/-! SUPPORT. What each named update leaves of each view of the state (flags, geometry, memory cells): one lemma per view and
update that does not touch it, true by `rfl`. -/

namespace Sys2Proof.Machine

/-! ### `State.setErr` -/

@[simp] theorem State.busy_setErr (c : BitVec 4) (s : State) : (State.setErr c s).busy = s.busy := rfl
@[simp] theorem State.rgb_setErr (c : BitVec 4) (s : State) : (State.setErr c s).rgb = s.rgb := rfl
@[simp] theorem State.channels_setErr (c : BitVec 4) (s : State) : (State.setErr c s).channels = s.channels := rfl
@[simp] theorem State.planes_setErr (c : BitVec 4) (s : State) : (State.setErr c s).planes = s.planes := rfl
@[simp] theorem State.pixels_setErr (c : BitVec 4) (s : State) : (State.setErr c s).pixels = s.pixels := rfl
@[simp] theorem State.planeOrder_setErr (c : BitVec 4) (s : State) : (State.setErr c s).planeOrder = s.planeOrder := rfl
@[simp] theorem State.useRle_setErr (c : BitVec 4) (s : State) : (State.setErr c s).useRle = s.useRle := rfl
@[simp] theorem State.pixelIndex_setErr (c : BitVec 4) (s : State) : (State.setErr c s).pixelIndex = s.pixelIndex := rfl
@[simp] theorem State.rowBase_setErr (c : BitVec 4) (k y : Nat) (s : State) : State.rowBase k y (State.setErr c s) = State.rowBase k y s := rfl
@[simp] theorem State.destinations_setErr (c : BitVec 4) (y : Nat) (s : State) : State.destinations y (State.setErr c s) = State.destinations y s := rfl
@[simp] theorem State.geomFits_setErr (c : BitVec 4) (pl : Nat) (im : Bool) (s : State) : State.geomFits pl im (State.setErr c s) = State.geomFits pl im s := rfl
@[simp] theorem State.readImg_setErr (c : BitVec 4) (x : Nat) (s : State) : (State.setErr c s).readImg x = s.readImg x := rfl
@[simp] theorem State.readPln_setErr (c : BitVec 4) (x : Nat) (s : State) : (State.setErr c s).readPln x = s.readPln x := rfl
@[simp] theorem State.readStr_setErr (c : BitVec 4) (x : Nat) (s : State) : (State.setErr c s).readStr x = s.readStr x := rfl

/-! ### `State.setStrat` -/

@[simp] theorem State.busy_setStrat (b : Bool) (s : State) : (State.setStrat b s).busy = s.busy := rfl
@[simp] theorem State.rgb_setStrat (b : Bool) (s : State) : (State.setStrat b s).rgb = s.rgb := rfl
@[simp] theorem State.channels_setStrat (b : Bool) (s : State) : (State.setStrat b s).channels = s.channels := rfl
@[simp] theorem State.planes_setStrat (b : Bool) (s : State) : (State.setStrat b s).planes = s.planes := rfl
@[simp] theorem State.pixels_setStrat (b : Bool) (s : State) : (State.setStrat b s).pixels = s.pixels := rfl
@[simp] theorem State.planeOrder_setStrat (b : Bool) (s : State) : (State.setStrat b s).planeOrder = s.planeOrder := rfl
@[simp] theorem State.useRle_setStrat (b : Bool) (s : State) : (State.setStrat b s).useRle = s.useRle := rfl
@[simp] theorem State.pixelIndex_setStrat (b : Bool) (s : State) : (State.setStrat b s).pixelIndex = s.pixelIndex := rfl
@[simp] theorem State.rowBase_setStrat (b : Bool) (k y : Nat) (s : State) : State.rowBase k y (State.setStrat b s) = State.rowBase k y s := rfl
@[simp] theorem State.destinations_setStrat (b : Bool) (y : Nat) (s : State) : State.destinations y (State.setStrat b s) = State.destinations y s := rfl
@[simp] theorem State.geomFits_setStrat (b : Bool) (pl : Nat) (im : Bool) (s : State) : State.geomFits pl im (State.setStrat b s) = State.geomFits pl im s := rfl
@[simp] theorem State.readImg_setStrat (b : Bool) (x : Nat) (s : State) : (State.setStrat b s).readImg x = s.readImg x := rfl
@[simp] theorem State.readPln_setStrat (b : Bool) (x : Nat) (s : State) : (State.setStrat b s).readPln x = s.readPln x := rfl
@[simp] theorem State.readStr_setStrat (b : Bool) (x : Nat) (s : State) : (State.setStrat b s).readStr x = s.readStr x := rfl

/-! ### `State.writeImg` -/

@[simp] theorem State.err_writeImg (a : Nat) (v : Word) (s : State) : (State.writeImg a v s).err = s.err := rfl
@[simp] theorem State.strat_writeImg (a : Nat) (v : Word) (s : State) : (State.writeImg a v s).strat = s.strat := rfl
@[simp] theorem State.busy_writeImg (a : Nat) (v : Word) (s : State) : (State.writeImg a v s).busy = s.busy := rfl
@[simp] theorem State.rgb_writeImg (a : Nat) (v : Word) (s : State) : (State.writeImg a v s).rgb = s.rgb := rfl
@[simp] theorem State.channels_writeImg (a : Nat) (v : Word) (s : State) : (State.writeImg a v s).channels = s.channels := rfl
@[simp] theorem State.planes_writeImg (a : Nat) (v : Word) (s : State) : (State.writeImg a v s).planes = s.planes := rfl
@[simp] theorem State.pixels_writeImg (a : Nat) (v : Word) (s : State) : (State.writeImg a v s).pixels = s.pixels := rfl
@[simp] theorem State.planeOrder_writeImg (a : Nat) (v : Word) (s : State) : (State.writeImg a v s).planeOrder = s.planeOrder := rfl
@[simp] theorem State.useRle_writeImg (a : Nat) (v : Word) (s : State) : (State.writeImg a v s).useRle = s.useRle := rfl
@[simp] theorem State.pixelIndex_writeImg (a : Nat) (v : Word) (s : State) : (State.writeImg a v s).pixelIndex = s.pixelIndex := rfl
@[simp] theorem State.rowBase_writeImg (a : Nat) (v : Word) (k y : Nat) (s : State) : State.rowBase k y (State.writeImg a v s) = State.rowBase k y s := rfl
@[simp] theorem State.destinations_writeImg (a : Nat) (v : Word) (y : Nat) (s : State) : State.destinations y (State.writeImg a v s) = State.destinations y s := rfl
@[simp] theorem State.geomFits_writeImg (a : Nat) (v : Word) (pl : Nat) (im : Bool) (s : State) : State.geomFits pl im (State.writeImg a v s) = State.geomFits pl im s := rfl
@[simp] theorem State.readPln_writeImg (a : Nat) (v : Word) (x : Nat) (s : State) : (State.writeImg a v s).readPln x = s.readPln x := rfl
@[simp] theorem State.readStr_writeImg (a : Nat) (v : Word) (x : Nat) (s : State) : (State.writeImg a v s).readStr x = s.readStr x := rfl

/-! ### `State.writePln` -/

@[simp] theorem State.err_writePln (a : Nat) (v : Byte) (s : State) : (State.writePln a v s).err = s.err := rfl
@[simp] theorem State.strat_writePln (a : Nat) (v : Byte) (s : State) : (State.writePln a v s).strat = s.strat := rfl
@[simp] theorem State.busy_writePln (a : Nat) (v : Byte) (s : State) : (State.writePln a v s).busy = s.busy := rfl
@[simp] theorem State.rgb_writePln (a : Nat) (v : Byte) (s : State) : (State.writePln a v s).rgb = s.rgb := rfl
@[simp] theorem State.channels_writePln (a : Nat) (v : Byte) (s : State) : (State.writePln a v s).channels = s.channels := rfl
@[simp] theorem State.planes_writePln (a : Nat) (v : Byte) (s : State) : (State.writePln a v s).planes = s.planes := rfl
@[simp] theorem State.pixels_writePln (a : Nat) (v : Byte) (s : State) : (State.writePln a v s).pixels = s.pixels := rfl
@[simp] theorem State.planeOrder_writePln (a : Nat) (v : Byte) (s : State) : (State.writePln a v s).planeOrder = s.planeOrder := rfl
@[simp] theorem State.useRle_writePln (a : Nat) (v : Byte) (s : State) : (State.writePln a v s).useRle = s.useRle := rfl
@[simp] theorem State.pixelIndex_writePln (a : Nat) (v : Byte) (s : State) : (State.writePln a v s).pixelIndex = s.pixelIndex := rfl
@[simp] theorem State.rowBase_writePln (a : Nat) (v : Byte) (k y : Nat) (s : State) : State.rowBase k y (State.writePln a v s) = State.rowBase k y s := rfl
@[simp] theorem State.destinations_writePln (a : Nat) (v : Byte) (y : Nat) (s : State) : State.destinations y (State.writePln a v s) = State.destinations y s := rfl
@[simp] theorem State.geomFits_writePln (a : Nat) (v : Byte) (pl : Nat) (im : Bool) (s : State) : State.geomFits pl im (State.writePln a v s) = State.geomFits pl im s := rfl
@[simp] theorem State.readImg_writePln (a : Nat) (v : Byte) (x : Nat) (s : State) : (State.writePln a v s).readImg x = s.readImg x := rfl
@[simp] theorem State.readStr_writePln (a : Nat) (v : Byte) (x : Nat) (s : State) : (State.writePln a v s).readStr x = s.readStr x := rfl

/-! ### `State.writeStr` -/

@[simp] theorem State.err_writeStr (a : Nat) (v : Byte) (s : State) : (State.writeStr a v s).err = s.err := rfl
@[simp] theorem State.strat_writeStr (a : Nat) (v : Byte) (s : State) : (State.writeStr a v s).strat = s.strat := rfl
@[simp] theorem State.busy_writeStr (a : Nat) (v : Byte) (s : State) : (State.writeStr a v s).busy = s.busy := rfl
@[simp] theorem State.rgb_writeStr (a : Nat) (v : Byte) (s : State) : (State.writeStr a v s).rgb = s.rgb := rfl
@[simp] theorem State.channels_writeStr (a : Nat) (v : Byte) (s : State) : (State.writeStr a v s).channels = s.channels := rfl
@[simp] theorem State.planes_writeStr (a : Nat) (v : Byte) (s : State) : (State.writeStr a v s).planes = s.planes := rfl
@[simp] theorem State.pixels_writeStr (a : Nat) (v : Byte) (s : State) : (State.writeStr a v s).pixels = s.pixels := rfl
@[simp] theorem State.planeOrder_writeStr (a : Nat) (v : Byte) (s : State) : (State.writeStr a v s).planeOrder = s.planeOrder := rfl
@[simp] theorem State.useRle_writeStr (a : Nat) (v : Byte) (s : State) : (State.writeStr a v s).useRle = s.useRle := rfl
@[simp] theorem State.pixelIndex_writeStr (a : Nat) (v : Byte) (s : State) : (State.writeStr a v s).pixelIndex = s.pixelIndex := rfl
@[simp] theorem State.rowBase_writeStr (a : Nat) (v : Byte) (k y : Nat) (s : State) : State.rowBase k y (State.writeStr a v s) = State.rowBase k y s := rfl
@[simp] theorem State.destinations_writeStr (a : Nat) (v : Byte) (y : Nat) (s : State) : State.destinations y (State.writeStr a v s) = State.destinations y s := rfl
@[simp] theorem State.geomFits_writeStr (a : Nat) (v : Byte) (pl : Nat) (im : Bool) (s : State) : State.geomFits pl im (State.writeStr a v s) = State.geomFits pl im s := rfl
@[simp] theorem State.readImg_writeStr (a : Nat) (v : Byte) (x : Nat) (s : State) : (State.writeStr a v s).readImg x = s.readImg x := rfl
@[simp] theorem State.readPln_writeStr (a : Nat) (v : Byte) (x : Nat) (s : State) : (State.writeStr a v s).readPln x = s.readPln x := rfl

/-! ### `State.pushByte` -/

@[simp] theorem State.err_pushByte (b : Byte) (s : State) : (State.pushByte b s).err = s.err := rfl
@[simp] theorem State.strat_pushByte (b : Byte) (s : State) : (State.pushByte b s).strat = s.strat := rfl
@[simp] theorem State.busy_pushByte (b : Byte) (s : State) : (State.pushByte b s).busy = s.busy := rfl
@[simp] theorem State.rgb_pushByte (b : Byte) (s : State) : (State.pushByte b s).rgb = s.rgb := rfl
@[simp] theorem State.channels_pushByte (b : Byte) (s : State) : (State.pushByte b s).channels = s.channels := rfl
@[simp] theorem State.planes_pushByte (b : Byte) (s : State) : (State.pushByte b s).planes = s.planes := rfl
@[simp] theorem State.pixels_pushByte (b : Byte) (s : State) : (State.pushByte b s).pixels = s.pixels := rfl
@[simp] theorem State.planeOrder_pushByte (b : Byte) (s : State) : (State.pushByte b s).planeOrder = s.planeOrder := rfl
@[simp] theorem State.useRle_pushByte (b : Byte) (s : State) : (State.pushByte b s).useRle = s.useRle := rfl
@[simp] theorem State.pixelIndex_pushByte (b : Byte) (s : State) : (State.pushByte b s).pixelIndex = s.pixelIndex := rfl
@[simp] theorem State.rowBase_pushByte (b : Byte) (k y : Nat) (s : State) : State.rowBase k y (State.pushByte b s) = State.rowBase k y s := rfl
@[simp] theorem State.destinations_pushByte (b : Byte) (y : Nat) (s : State) : State.destinations y (State.pushByte b s) = State.destinations y s := rfl
@[simp] theorem State.geomFits_pushByte (b : Byte) (pl : Nat) (im : Bool) (s : State) : State.geomFits pl im (State.pushByte b s) = State.geomFits pl im s := rfl
@[simp] theorem State.readImg_pushByte (b : Byte) (x : Nat) (s : State) : (State.pushByte b s).readImg x = s.readImg x := rfl
@[simp] theorem State.readPln_pushByte (b : Byte) (x : Nat) (s : State) : (State.pushByte b s).readPln x = s.readPln x := rfl

/-! ### `State.enterFault` -/

@[simp] theorem State.rgb_enterFault (f : FaultCode) (w : Word) (s : State) : (State.enterFault f w s).rgb = s.rgb := rfl
@[simp] theorem State.channels_enterFault (f : FaultCode) (w : Word) (s : State) : (State.enterFault f w s).channels = s.channels := rfl
@[simp] theorem State.planes_enterFault (f : FaultCode) (w : Word) (s : State) : (State.enterFault f w s).planes = s.planes := rfl
@[simp] theorem State.pixels_enterFault (f : FaultCode) (w : Word) (s : State) : (State.enterFault f w s).pixels = s.pixels := rfl
@[simp] theorem State.planeOrder_enterFault (f : FaultCode) (w : Word) (s : State) : (State.enterFault f w s).planeOrder = s.planeOrder := rfl
@[simp] theorem State.useRle_enterFault (f : FaultCode) (w : Word) (s : State) : (State.enterFault f w s).useRle = s.useRle := rfl
@[simp] theorem State.pixelIndex_enterFault (f : FaultCode) (w : Word) (s : State) : (State.enterFault f w s).pixelIndex = s.pixelIndex := rfl
@[simp] theorem State.rowBase_enterFault (f : FaultCode) (w : Word) (k y : Nat) (s : State) : State.rowBase k y (State.enterFault f w s) = State.rowBase k y s := rfl
@[simp] theorem State.destinations_enterFault (f : FaultCode) (w : Word) (y : Nat) (s : State) : State.destinations y (State.enterFault f w s) = State.destinations y s := rfl
@[simp] theorem State.geomFits_enterFault (f : FaultCode) (w : Word) (pl : Nat) (im : Bool) (s : State) : State.geomFits pl im (State.enterFault f w s) = State.geomFits pl im s := rfl
@[simp] theorem State.readImg_enterFault (f : FaultCode) (w : Word) (x : Nat) (s : State) : (State.enterFault f w s).readImg x = s.readImg x := rfl
@[simp] theorem State.readPln_enterFault (f : FaultCode) (w : Word) (x : Nat) (s : State) : (State.enterFault f w s).readPln x = s.readPln x := rfl
@[simp] theorem State.readStr_enterFault (f : FaultCode) (w : Word) (x : Nat) (s : State) : (State.enterFault f w s).readStr x = s.readStr x := rfl

/-! ### `State.setQuad` -/

@[simp] theorem State.err_setQuad (q : Quad) (s : State) : (State.setQuad q s).err = s.err := rfl
@[simp] theorem State.strat_setQuad (q : Quad) (s : State) : (State.setQuad q s).strat = s.strat := rfl
@[simp] theorem State.busy_setQuad (q : Quad) (s : State) : (State.setQuad q s).busy = s.busy := rfl
@[simp] theorem State.rgb_setQuad (q : Quad) (s : State) : (State.setQuad q s).rgb = s.rgb := rfl
@[simp] theorem State.channels_setQuad (q : Quad) (s : State) : (State.setQuad q s).channels = s.channels := rfl
@[simp] theorem State.planes_setQuad (q : Quad) (s : State) : (State.setQuad q s).planes = s.planes := rfl
@[simp] theorem State.pixels_setQuad (q : Quad) (s : State) : (State.setQuad q s).pixels = s.pixels := rfl
@[simp] theorem State.planeOrder_setQuad (q : Quad) (s : State) : (State.setQuad q s).planeOrder = s.planeOrder := rfl
@[simp] theorem State.useRle_setQuad (q : Quad) (s : State) : (State.setQuad q s).useRle = s.useRle := rfl
@[simp] theorem State.pixelIndex_setQuad (q : Quad) (s : State) : (State.setQuad q s).pixelIndex = s.pixelIndex := rfl
@[simp] theorem State.rowBase_setQuad (q : Quad) (k y : Nat) (s : State) : State.rowBase k y (State.setQuad q s) = State.rowBase k y s := rfl
@[simp] theorem State.destinations_setQuad (q : Quad) (y : Nat) (s : State) : State.destinations y (State.setQuad q s) = State.destinations y s := rfl
@[simp] theorem State.geomFits_setQuad (q : Quad) (pl : Nat) (im : Bool) (s : State) : State.geomFits pl im (State.setQuad q s) = State.geomFits pl im s := rfl
@[simp] theorem State.readImg_setQuad (q : Quad) (x : Nat) (s : State) : (State.setQuad q s).readImg x = s.readImg x := rfl
@[simp] theorem State.readPln_setQuad (q : Quad) (x : Nat) (s : State) : (State.setQuad q s).readPln x = s.readPln x := rfl
@[simp] theorem State.readStr_setQuad (q : Quad) (x : Nat) (s : State) : (State.setQuad q s).readStr x = s.readStr x := rfl

/-! ### `State.setFloats` -/

@[simp] theorem State.err_setFloats (v0 v1 v2 : Word) (s : State) : (State.setFloats v0 v1 v2 s).err = s.err := rfl
@[simp] theorem State.strat_setFloats (v0 v1 v2 : Word) (s : State) : (State.setFloats v0 v1 v2 s).strat = s.strat := rfl
@[simp] theorem State.busy_setFloats (v0 v1 v2 : Word) (s : State) : (State.setFloats v0 v1 v2 s).busy = s.busy := rfl
@[simp] theorem State.rgb_setFloats (v0 v1 v2 : Word) (s : State) : (State.setFloats v0 v1 v2 s).rgb = s.rgb := rfl
@[simp] theorem State.channels_setFloats (v0 v1 v2 : Word) (s : State) : (State.setFloats v0 v1 v2 s).channels = s.channels := rfl
@[simp] theorem State.planes_setFloats (v0 v1 v2 : Word) (s : State) : (State.setFloats v0 v1 v2 s).planes = s.planes := rfl
@[simp] theorem State.pixels_setFloats (v0 v1 v2 : Word) (s : State) : (State.setFloats v0 v1 v2 s).pixels = s.pixels := rfl
@[simp] theorem State.planeOrder_setFloats (v0 v1 v2 : Word) (s : State) : (State.setFloats v0 v1 v2 s).planeOrder = s.planeOrder := rfl
@[simp] theorem State.useRle_setFloats (v0 v1 v2 : Word) (s : State) : (State.setFloats v0 v1 v2 s).useRle = s.useRle := rfl
@[simp] theorem State.pixelIndex_setFloats (v0 v1 v2 : Word) (s : State) : (State.setFloats v0 v1 v2 s).pixelIndex = s.pixelIndex := rfl
@[simp] theorem State.rowBase_setFloats (v0 v1 v2 : Word) (k y : Nat) (s : State) : State.rowBase k y (State.setFloats v0 v1 v2 s) = State.rowBase k y s := rfl
@[simp] theorem State.destinations_setFloats (v0 v1 v2 : Word) (y : Nat) (s : State) : State.destinations y (State.setFloats v0 v1 v2 s) = State.destinations y s := rfl
@[simp] theorem State.geomFits_setFloats (v0 v1 v2 : Word) (pl : Nat) (im : Bool) (s : State) : State.geomFits pl im (State.setFloats v0 v1 v2 s) = State.geomFits pl im s := rfl
@[simp] theorem State.readImg_setFloats (v0 v1 v2 : Word) (x : Nat) (s : State) : (State.setFloats v0 v1 v2 s).readImg x = s.readImg x := rfl
@[simp] theorem State.readPln_setFloats (v0 v1 v2 : Word) (x : Nat) (s : State) : (State.setFloats v0 v1 v2 s).readPln x = s.readPln x := rfl
@[simp] theorem State.readStr_setFloats (v0 v1 v2 : Word) (x : Nat) (s : State) : (State.setFloats v0 v1 v2 s).readStr x = s.readStr x := rfl

/-! ### `State.setDimensions` -/

@[simp] theorem State.err_setDimensions (h w : Word) (s : State) : (State.setDimensions h w s).err = s.err := rfl
@[simp] theorem State.strat_setDimensions (h w : Word) (s : State) : (State.setDimensions h w s).strat = s.strat := rfl
@[simp] theorem State.busy_setDimensions (h w : Word) (s : State) : (State.setDimensions h w s).busy = s.busy := rfl
@[simp] theorem State.rgb_setDimensions (h w : Word) (s : State) : (State.setDimensions h w s).rgb = s.rgb := rfl
@[simp] theorem State.channels_setDimensions (h w : Word) (s : State) : (State.setDimensions h w s).channels = s.channels := rfl
@[simp] theorem State.planes_setDimensions (h w : Word) (s : State) : (State.setDimensions h w s).planes = s.planes := rfl
@[simp] theorem State.planeOrder_setDimensions (h w : Word) (s : State) : (State.setDimensions h w s).planeOrder = s.planeOrder := rfl
@[simp] theorem State.readImg_setDimensions (h w : Word) (x : Nat) (s : State) : (State.setDimensions h w s).readImg x = s.readImg x := rfl
@[simp] theorem State.readPln_setDimensions (h w : Word) (x : Nat) (s : State) : (State.setDimensions h w s).readPln x = s.readPln x := rfl
@[simp] theorem State.readStr_setDimensions (h w : Word) (x : Nat) (s : State) : (State.setDimensions h w s).readStr x = s.readStr x := rfl

/-! ### `State.firstScan` -/

@[simp] theorem State.err_firstScan (s : State) : (State.firstScan s).err = s.err := rfl
@[simp] theorem State.strat_firstScan (s : State) : (State.firstScan s).strat = s.strat := rfl
@[simp] theorem State.busy_firstScan (s : State) : (State.firstScan s).busy = s.busy := rfl
@[simp] theorem State.rgb_firstScan (s : State) : (State.firstScan s).rgb = s.rgb := rfl
@[simp] theorem State.channels_firstScan (s : State) : (State.firstScan s).channels = s.channels := rfl
@[simp] theorem State.planes_firstScan (s : State) : (State.firstScan s).planes = s.planes := rfl
@[simp] theorem State.pixels_firstScan (s : State) : (State.firstScan s).pixels = s.pixels := rfl
@[simp] theorem State.planeOrder_firstScan (s : State) : (State.firstScan s).planeOrder = s.planeOrder := rfl
@[simp] theorem State.useRle_firstScan (s : State) : (State.firstScan s).useRle = s.useRle := rfl
@[simp] theorem State.pixelIndex_firstScan (s : State) : (State.firstScan s).pixelIndex = s.pixelIndex := rfl
@[simp] theorem State.rowBase_firstScan (k y : Nat) (s : State) : State.rowBase k y (State.firstScan s) = State.rowBase k y s := rfl
@[simp] theorem State.destinations_firstScan (y : Nat) (s : State) : State.destinations y (State.firstScan s) = State.destinations y s := rfl
@[simp] theorem State.geomFits_firstScan (pl : Nat) (im : Bool) (s : State) : State.geomFits pl im (State.firstScan s) = State.geomFits pl im s := rfl
@[simp] theorem State.readImg_firstScan (x : Nat) (s : State) : (State.firstScan s).readImg x = s.readImg x := rfl
@[simp] theorem State.readPln_firstScan (x : Nat) (s : State) : (State.firstScan s).readPln x = s.readPln x := rfl
@[simp] theorem State.readStr_firstScan (x : Nat) (s : State) : (State.firstScan s).readStr x = s.readStr x := rfl

/-! ### `State.endScan` -/

@[simp] theorem State.busy_endScan (b : Bool) (s : State) : (State.endScan b s).busy = s.busy := rfl
@[simp] theorem State.rgb_endScan (b : Bool) (s : State) : (State.endScan b s).rgb = s.rgb := rfl
@[simp] theorem State.channels_endScan (b : Bool) (s : State) : (State.endScan b s).channels = s.channels := rfl
@[simp] theorem State.planes_endScan (b : Bool) (s : State) : (State.endScan b s).planes = s.planes := rfl
@[simp] theorem State.pixels_endScan (b : Bool) (s : State) : (State.endScan b s).pixels = s.pixels := rfl
@[simp] theorem State.planeOrder_endScan (b : Bool) (s : State) : (State.endScan b s).planeOrder = s.planeOrder := rfl
@[simp] theorem State.useRle_endScan (b : Bool) (s : State) : (State.endScan b s).useRle = s.useRle := rfl
@[simp] theorem State.pixelIndex_endScan (b : Bool) (s : State) : (State.endScan b s).pixelIndex = s.pixelIndex := rfl
@[simp] theorem State.rowBase_endScan (b : Bool) (k y : Nat) (s : State) : State.rowBase k y (State.endScan b s) = State.rowBase k y s := rfl
@[simp] theorem State.destinations_endScan (b : Bool) (y : Nat) (s : State) : State.destinations y (State.endScan b s) = State.destinations y s := rfl
@[simp] theorem State.geomFits_endScan (b : Bool) (pl : Nat) (im : Bool) (s : State) : State.geomFits pl im (State.endScan b s) = State.geomFits pl im s := rfl
@[simp] theorem State.readImg_endScan (b : Bool) (x : Nat) (s : State) : (State.endScan b s).readImg x = s.readImg x := rfl
@[simp] theorem State.readPln_endScan (b : Bool) (x : Nat) (s : State) : (State.endScan b s).readPln x = s.readPln x := rfl
@[simp] theorem State.readStr_endScan (b : Bool) (x : Nat) (s : State) : (State.endScan b s).readStr x = s.readStr x := rfl

/-! ### `State.decodeAt` -/

@[simp] theorem State.err_decodeAt (c : DecodeCommand) (p : DecodePhase) (s : State) : (State.decodeAt c p s).err = s.err := rfl
@[simp] theorem State.strat_decodeAt (c : DecodeCommand) (p : DecodePhase) (s : State) : (State.decodeAt c p s).strat = s.strat := rfl
@[simp] theorem State.rgb_decodeAt (c : DecodeCommand) (p : DecodePhase) (s : State) : (State.decodeAt c p s).rgb = s.rgb := rfl
@[simp] theorem State.channels_decodeAt (c : DecodeCommand) (p : DecodePhase) (s : State) : (State.decodeAt c p s).channels = s.channels := rfl
@[simp] theorem State.planes_decodeAt (c : DecodeCommand) (p : DecodePhase) (s : State) : (State.decodeAt c p s).planes = s.planes := rfl
@[simp] theorem State.pixels_decodeAt (c : DecodeCommand) (p : DecodePhase) (s : State) : (State.decodeAt c p s).pixels = s.pixels := rfl
@[simp] theorem State.planeOrder_decodeAt (c : DecodeCommand) (p : DecodePhase) (s : State) : (State.decodeAt c p s).planeOrder = s.planeOrder := rfl
@[simp] theorem State.useRle_decodeAt (c : DecodeCommand) (p : DecodePhase) (s : State) : (State.decodeAt c p s).useRle = s.useRle := rfl
@[simp] theorem State.pixelIndex_decodeAt (c : DecodeCommand) (p : DecodePhase) (s : State) : (State.decodeAt c p s).pixelIndex = s.pixelIndex := rfl
@[simp] theorem State.rowBase_decodeAt (c : DecodeCommand) (p : DecodePhase) (k y : Nat) (s : State) : State.rowBase k y (State.decodeAt c p s) = State.rowBase k y s := rfl
@[simp] theorem State.destinations_decodeAt (c : DecodeCommand) (p : DecodePhase) (y : Nat) (s : State) : State.destinations y (State.decodeAt c p s) = State.destinations y s := rfl
@[simp] theorem State.geomFits_decodeAt (c : DecodeCommand) (p : DecodePhase) (pl : Nat) (im : Bool) (s : State) : State.geomFits pl im (State.decodeAt c p s) = State.geomFits pl im s := rfl
@[simp] theorem State.readImg_decodeAt (c : DecodeCommand) (p : DecodePhase) (x : Nat) (s : State) : (State.decodeAt c p s).readImg x = s.readImg x := rfl
@[simp] theorem State.readPln_decodeAt (c : DecodeCommand) (p : DecodePhase) (x : Nat) (s : State) : (State.decodeAt c p s).readPln x = s.readPln x := rfl
@[simp] theorem State.readStr_decodeAt (c : DecodeCommand) (p : DecodePhase) (x : Nat) (s : State) : (State.decodeAt c p s).readStr x = s.readStr x := rfl

/-! ### `State.decodeDone` -/

@[simp] theorem State.err_decodeDone (s : State) : (State.decodeDone s).err = s.err := rfl
@[simp] theorem State.strat_decodeDone (s : State) : (State.decodeDone s).strat = s.strat := rfl
@[simp] theorem State.rgb_decodeDone (s : State) : (State.decodeDone s).rgb = s.rgb := rfl
@[simp] theorem State.channels_decodeDone (s : State) : (State.decodeDone s).channels = s.channels := rfl
@[simp] theorem State.planes_decodeDone (s : State) : (State.decodeDone s).planes = s.planes := rfl
@[simp] theorem State.pixels_decodeDone (s : State) : (State.decodeDone s).pixels = s.pixels := rfl
@[simp] theorem State.planeOrder_decodeDone (s : State) : (State.decodeDone s).planeOrder = s.planeOrder := rfl
@[simp] theorem State.useRle_decodeDone (s : State) : (State.decodeDone s).useRle = s.useRle := rfl
@[simp] theorem State.pixelIndex_decodeDone (s : State) : (State.decodeDone s).pixelIndex = s.pixelIndex := rfl
@[simp] theorem State.rowBase_decodeDone (k y : Nat) (s : State) : State.rowBase k y (State.decodeDone s) = State.rowBase k y s := rfl
@[simp] theorem State.destinations_decodeDone (y : Nat) (s : State) : State.destinations y (State.decodeDone s) = State.destinations y s := rfl
@[simp] theorem State.geomFits_decodeDone (pl : Nat) (im : Bool) (s : State) : State.geomFits pl im (State.decodeDone s) = State.geomFits pl im s := rfl
@[simp] theorem State.readImg_decodeDone (x : Nat) (s : State) : (State.decodeDone s).readImg x = s.readImg x := rfl
@[simp] theorem State.readPln_decodeDone (x : Nat) (s : State) : (State.decodeDone s).readPln x = s.readPln x := rfl
@[simp] theorem State.readStr_decodeDone (x : Nat) (s : State) : (State.decodeDone s).readStr x = s.readStr x := rfl

end Sys2Proof.Machine
end

