-- ==== Sys2Proof/Laws/Flags.lean ====
section
/-! SUPPORT. The fields of `STATUS` (R24): what the two writes and fault entry do to each of them. -/

namespace Sys2Proof.Machine

/-- Writing `ERR` as a concatenation of the other bits and the code. -/
theorem State.setErr_status_append (c : BitVec 4) (s : State) :
    (s.setErr c).status = s.status.extractLsb' 4 28 ++ c := by
  ext i hi
  have hi : i < 32 := hi
  rw [State.setErr_status, BitVec.getElem_append]
  simp only [BitVec.getElem_or, BitVec.getElem_and, BitVec.getElem_setWidth]
  interval_cases i <;> simp

/-- Writing `STRAT` as a concatenation of the other bits and the flag. -/
theorem State.setStrat_status_append (b : Bool) (s : State) :
    (s.setStrat b).status = s.status.extractLsb' 5 27 ++ (BitVec.ofBool b ++ s.status.extractLsb' 0 4) := by
  apply BitVec.eq_of_getLsbD_eq
  intro i hi
  have hi : i < 32 := hi
  rw [State.setStrat_status, BitVec.getLsbD_append, BitVec.getLsbD_append]
  cases b <;> interval_cases i <;> simp

/-- Writing `ERR` keeps the other 28 bits of `STATUS`. -/
theorem State.setErr_status_toNat (c : BitVec 4) (s : State) :
    (s.setErr c).status.toNat = s.status.toNat / 16 * 16 + c.toNat := by
  have h := s.status.isLt
  rw [State.setErr_status_append, append_toNat, extract_toNat]
  omega

/-- Writing `STRAT` keeps the other 31 bits of `STATUS`. -/
theorem State.setStrat_status_toNat (b : Bool) (s : State) :
    (s.setStrat b).status.toNat = s.status.toNat / 32 * 32 + b.toNat * 16 + s.status.toNat % 16 := by
  have h := s.status.isLt
  have h2 := append_toNat (s.status.extractLsb' 5 27) (BitVec.ofBool b ++ s.status.extractLsb' 0 4)
  have h3 := append_toNat (BitVec.ofBool b) (s.status.extractLsb' 0 4)
  have h4 : (s.status.extractLsb' 0 4).toNat = s.status.toNat % 16 := by simp
  have h5 : (s.status.extractLsb' 5 27).toNat = s.status.toNat / 32 := by rw [extract_toNat]; omega
  have h6 : (BitVec.ofBool b).toNat = b.toNat := BitVec.toNat_ofBool b
  rw [State.setStrat_status_append]
  refine h2.trans ?_
  rw [h3, h4, h5, h6]
  omega

/-- `STATUS.ERR` as a number. -/
theorem State.err_toNat (s : State) : s.err.toNat = s.status.toNat % 16 := by
  simp [State.err, BitVec.extractLsb'_toNat]

/-- `STATUS.STRAT` as a number. -/
theorem State.strat_toNat (s : State) : s.strat.toNat = s.status.toNat / 16 % 2 := getLsbD_toNat s.status 4

@[simp] theorem State.err_setErr (c : BitVec 4) (s : State) : (s.setErr c).err = c := by
  apply BitVec.eq_of_toNat_eq
  have := c.isLt
  rw [State.err_toNat, State.setErr_status_toNat]
  omega

@[simp] theorem State.strat_setErr (c : BitVec 4) (s : State) : (s.setErr c).strat = s.strat := by
  apply bool_toNat_inj
  have := c.isLt
  rw [State.strat_toNat, State.strat_toNat, State.setErr_status_toNat]
  omega

@[simp] theorem State.err_setStrat (b : Bool) (s : State) : (s.setStrat b).err = s.err := by
  apply BitVec.eq_of_toNat_eq
  have := Bool.toNat_lt b
  rw [State.err_toNat, State.err_toNat, State.setStrat_status_toNat]
  omega

@[simp] theorem State.strat_setStrat (b : Bool) (s : State) : (s.setStrat b).strat = b := by
  apply bool_toNat_inj
  have := Bool.toNat_lt b
  rw [State.strat_toNat, State.setStrat_status_toNat]
  omega

/-- The last `STRAT` written is the one that stays. -/
@[simp] theorem State.setStrat_setStrat_status (b c : Bool) (s : State) :
    ((s.setStrat b).setStrat c).status = (s.setStrat c).status := by
  apply BitVec.eq_of_toNat_eq
  have := Bool.toNat_lt b
  rw [State.setStrat_status_toNat, State.setStrat_status_toNat, State.setStrat_status_toNat]
  omega

@[simp] theorem State.err_enterFault (f : FaultCode) (w : Word) (s : State) : (s.enterFault f w).err = f.code := by
  have : (s.enterFault f w).err = (s.setErr f.code).err := rfl
  rw [this, State.err_setErr]

@[simp] theorem State.strat_enterFault (f : FaultCode) (w : Word) (s : State) : (s.enterFault f w).strat = s.strat := by
  have : (s.enterFault f w).strat = (s.setErr f.code).strat := rfl
  rw [this, State.strat_setErr]

@[simp] theorem State.err_endScan (b : Bool) (s : State) : (s.endScan b).err = s.err := by
  have : (s.endScan b).err = (s.setStrat b).err := rfl
  rw [this, State.err_setStrat]

@[simp] theorem State.strat_endScan (b : Bool) (s : State) : (s.endScan b).strat = b := by
  have : (s.endScan b).strat = (s.setStrat b).strat := rfl
  rw [this, State.strat_setStrat]

/-- Every fault has a code other than 0, "none" (R160). -/
@[simp] theorem FaultCode.code_ne_zero (f : FaultCode) : f.code ≠ 0#4 := by cases f <;> decide

/-- The codes 6..15 are never written (R160). -/
theorem FaultCode.code_le (f : FaultCode) : f.code.toNat ≤ 5 := by cases f <;> decide

theorem FaultCode.code_injective {f g : FaultCode} (h : f.code = g.code) : f = g := by
  cases f <;> cases g <;> first | rfl | exact absurd h (by decide)

/-- Two states with one `STATUS` have the same flags. -/
theorem State.err_congr {s t : State} (h : s.status = t.status) : s.err = t.err := by simp only [State.err, h]

end Sys2Proof.Machine
end

