-- ==== Sys2Proof/Laws/Memory.lean ====
section
/-! SUPPORT. The laws of memory: a read after a write, the canonical form, the capacity bound. -/

namespace Sys2Proof.Machine

/-! ### One memory space -/

/-- A read after a write: the value at the address written, every other cell as before. -/
theorem Memory.cell?_store {w : Nat} (m : Memory w) (a b : Nat) (v : BitVec w) :
    Memory.cell? (Memory.store m a v) b = if b = a then some v else Memory.cell? m b := by
  induction m with
  | nil => simp only [Memory.store, Memory.cell?]
  | cons c m ih =>
    obtain ⟨x, u⟩ := c
    simp only [Memory.store]
    split
    · simp only [Memory.cell?]
    · split
      · subst x; simp only [Memory.cell?]; split <;> rfl
      · simp only [Memory.cell?, ih]; split <;> split <;> first | rfl | omega

/-- A write keeps the addresses above a bound that is below the address written. -/
theorem Memory.risesAbove_store {w : Nat} {lo a : Nat} {m : Memory w} (v : BitVec w)
    (h : Memory.risesAbove lo m = true) (ha : lo < a) : Memory.risesAbove lo (Memory.store m a v) = true := by
  induction m generalizing lo with
  | nil => simp [Memory.store, Memory.risesAbove, ha]
  | cons c m ih =>
    obtain ⟨x, u⟩ := c
    simp only [Memory.risesAbove, Bool.and_eq_true, decide_eq_true_eq] at h
    simp only [Memory.store]
    split
    · simp [Memory.risesAbove, *]
    · split
      · simp [Memory.risesAbove, *]
      · simp only [Memory.risesAbove, Bool.and_eq_true, decide_eq_true_eq]
        exact ⟨h.1, ih h.2 (by omega)⟩

/-- A write keeps the canonical form. -/
theorem Memory.wf_store {w : Nat} {m : Memory w} (a : Nat) (v : BitVec w) (h : Memory.wf m = true) :
    Memory.wf (Memory.store m a v) = true := by
  cases m with
  | nil => rfl
  | cons c m =>
    obtain ⟨x, u⟩ := c
    simp only [Memory.wf] at h
    simp only [Memory.store]
    split
    · simp [Memory.wf, Memory.risesAbove, *]
    · split
      · subst x; exact h
      · exact Memory.risesAbove_store v h (by omega)

/-- A write below the capacity keeps every cell below it. -/
theorem Memory.below_store {w cap a : Nat} {m : Memory w} (v : BitVec w) (h : Memory.below cap m = true)
    (ha : a < cap) : Memory.below cap (Memory.store m a v) = true := by
  induction m with
  | nil => simp [Memory.below, Memory.store, ha]
  | cons c m ih =>
    obtain ⟨x, u⟩ := c
    simp only [Memory.below, List.all_cons, Bool.and_eq_true, decide_eq_true_eq] at h ih
    simp only [Memory.store]
    split
    · simp [Memory.below, List.all_cons, *]
    · split <;> simp [Memory.below, List.all_cons, *]

/-! ### The three spaces -/

/-- `IMG` after a write. -/
theorem State.readImg_writeImg (s : State) (a b : Nat) (v : Word) :
    (s.writeImg a v).readImg b = if b = a then v else s.readImg b := by
  simp only [State.readImg, State.writeImg, Memory.cell?_store]; split <;> rfl

/-- `PLN` after a write. -/
theorem State.readPln_writePln (s : State) (a b : Nat) (v : Byte) :
    (s.writePln a v).readPln b = if b = a then v else s.readPln b := by
  simp only [State.readPln, State.writePln, Memory.cell?_store]; split <;> rfl

/-- `STR` after a write. -/
theorem State.readStr_writeStr (s : State) (a b : Nat) (v : Byte) :
    (s.writeStr a v).readStr b = if b = a then v else s.readStr b := by
  simp only [State.readStr, State.writeStr, Memory.cell?_store]; split <;> rfl

@[simp] theorem State.readImg_writeImg_self (s : State) (a : Nat) (v : Word) : (s.writeImg a v).readImg a = v := by
  simp [State.readImg_writeImg]

@[simp] theorem State.readPln_writePln_self (s : State) (a : Nat) (v : Byte) : (s.writePln a v).readPln a = v := by
  simp [State.readPln_writePln]

@[simp] theorem State.readStr_writeStr_self (s : State) (a : Nat) (v : Byte) : (s.writeStr a v).readStr a = v := by
  simp [State.readStr_writeStr]

/-- `STR` after `PutByte` (R48). -/
theorem State.readStr_pushByte (s : State) (b : Byte) (a : Nat) :
    (s.pushByte b).readStr a = if a = s.spos.toNat then b else s.readStr a := by
  simp only [State.readStr, State.pushByte, Memory.cell?_store]; split <;> rfl

/-- A slice of `PLN`, byte by byte. -/
theorem State.plnSlice_getElem? (s : State) (a n i : Nat) :
    (s.plnSlice a n)[i]? = if i < n then some (s.readPln (a + i)) else none := by
  induction n generalizing a i with
  | zero => simp [State.plnSlice]
  | succ n ih =>
    cases i with
    | zero => simp [State.plnSlice]
    | succ i => simp [State.plnSlice, ih, Nat.add_comm, Nat.add_left_comm]

@[simp] theorem State.plnSlice_length (s : State) (a n : Nat) : (s.plnSlice a n).length = n := by
  induction n generalizing a with
  | zero => rfl
  | succ n ih => simp [State.plnSlice, ih]

/-- A slice depends on `PLN` only. -/
theorem State.plnSlice_congr {s t : State} {a n : Nat} (h : ∀ i, i < n → t.readPln (a + i) = s.readPln (a + i)) :
    t.plnSlice a n = s.plnSlice a n := by
  induction n generalizing a with
  | zero => rfl
  | succ n ih =>
    have h0 := h 0 (by omega)
    simp only [State.plnSlice, Nat.add_zero] at h0 ⊢
    rw [h0, ih fun i hi => by rw [Nat.add_right_comm, Nat.add_assoc]; exact h (i + 1) (by omega)]

end Sys2Proof.Machine
end

