-- ==== Sys2Proof/Laws/Ops.lean ====
section
/-! SUPPORT. The laws of the shared operations: what each combinator of the pseudocode, each stream primitive, each check,
fault entry and the frame of a command can do, said once. -/

namespace Sys2Proof.Machine

/-! ### Applying a piece of pseudocode to a state -/

@[simp] theorem pure_apply {α : Type} (a : α) (s : State) : (pure a : Op α) s = .ok a s := rfl

@[simp] theorem raise_apply {α : Type} (f : FaultCode) (s : State) : (raise f : Op α) s = .error f s := rfl

@[simp] theorem update_apply (g : State → State) (s : State) : update g s = .ok () (g s) := rfl

@[simp] theorem reading_apply {α β : Type} (g : State → α) (k : α → Op β) (s : State) : reading g k s = k (g s) s := rfl

theorem raiseIf_apply (b : Bool) (f : FaultCode) (s : State) :
    raiseIf b f s = if b then .error f s else .ok () s := rfl

/-- The second piece runs on what the first leaves; a `raise` of the first ends both. -/
theorem bind_apply {α β : Type} (x : Op α) (k : α → Op β) (s : State) :
    (x >>= k) s = match x s with
      | .ok a t => k a t
      | .error f t => .error f t := by
  show EStateM.bind x k s = _
  unfold EStateM.bind
  cases x s <;> rfl

theorem bind_ok {α β : Type} {x : Op α} {k : α → Op β} {s t : State} {a : α} (h : x s = .ok a t) :
    (x >>= k) s = k a t := by rw [bind_apply, h]

theorem bind_error {α β : Type} {x : Op α} {k : α → Op β} {s t : State} {f : FaultCode} (h : x s = .error f t) :
    (x >>= k) s = .error f t := by rw [bind_apply, h]

theorem forUp_zero (body : Nat → Op Unit) (i : Nat) (s : State) : forUp body 0 i s = .ok () s := rfl

theorem forUp_succ (body : Nat → Op Unit) (n i : Nat) :
    forUp body (n + 1) i = (body i >>= fun _ => forUp body n (i + 1)) := rfl

theorem times_zero (body : Op Unit) (s : State) : times body 0 s = .ok () s := rfl

theorem times_succ (body : Op Unit) (n : Nat) : times body (n + 1) = (body >>= fun _ => times body n) := rfl

/-- What `n` plain writes at consecutive indices make of a state. -/
def State.iterate (g : Nat → State → State) : Nat → Nat → State → State
  | 0, _, s => s
  | n + 1, i, s => State.iterate g n (i + 1) (g i s)

/-- A loop of plain writes never raises. -/
theorem forUp_update (g : Nat → State → State) (n i : Nat) (s : State) :
    forUp (fun j => update (g j)) n i s = .ok () (State.iterate g n i s) := by
  induction n generalizing i s with
  | zero => rfl
  | succ n ih => rw [forUp_succ, bind_ok (update_apply (g i) s), ih]; rfl

/-- A property every write keeps, the loop keeps. -/
theorem State.iterate_induct {g : Nat → State → State} {P : State → Prop} {n i : Nat} {s : State}
    (hg : ∀ j t, i ≤ j → j < i + n → P t → P (g j t)) (hs : P s) : P (State.iterate g n i s) := by
  induction n generalizing i s with
  | zero => exact hs
  | succ n ih =>
    exact ih (fun j t h1 h2 => hg j t (by omega) (by omega)) (hg i s (by omega) (by omega) hs)

/-! ### What a piece of pseudocode keeps -/

/-- Whether it runs to its end or raises, the state `x` leaves stands in relation `R` to the state it started from. -/
def Op.Keeps {α : Type} (R : State → State → Prop) (x : Op α) : Prop := ∀ s, R s (x.final s)

/-- `x` raises no fault outside `P`. -/
def Op.RaisesOnly {α : Type} (P : FaultCode → Prop) (x : Op α) : Prop := ∀ s f t, x s = .error f t → P f

theorem final_ok {α : Type} {x : Op α} {s t : State} {a : α} (h : x s = .ok a t) : x.final s = t := by
  rw [Op.final, h]

theorem final_error {α : Type} {x : Op α} {s t : State} {f : FaultCode} (h : x s = .error f t) : x.final s = t := by
  rw [Op.final, h]

/-- A piece of pseudocode runs to its end or raises, and nothing else. -/
theorem Op.cases {α : Type} (x : Op α) (s : State) : (∃ a t, x s = .ok a t) ∨ (∃ f t, x s = .error f t) := by
  cases h : x s with
  | ok a t => exact .inl ⟨a, t, rfl⟩
  | error f t => exact .inr ⟨f, t, rfl⟩

/-- A relation between the state before and the state after that pieces of pseudocode can be chained in. -/
structure Chains (R : State → State → Prop) : Prop where
  refl : ∀ s, R s s
  trans : ∀ s t u, R s t → R t u → R s u

section Keeps

variable {R Q : State → State → Prop} {α β : Type}

theorem Op.keeps_pure (c : Chains R) (a : α) : Op.Keeps R (pure a) := fun s => c.refl s

theorem Op.keeps_raise (c : Chains R) (f : FaultCode) : Op.Keeps R (raise f : Op α) := fun s => c.refl s

theorem Op.keeps_raiseIf (c : Chains R) (b : Bool) (f : FaultCode) : Op.Keeps R (raiseIf b f) := fun s => by
  rw [Op.final, raiseIf_apply]; cases b <;> exact c.refl s

theorem Op.keeps_update {g : State → State} (h : ∀ s, R s (g s)) : Op.Keeps R (update g) := h

theorem Op.keeps_reading {g : State → α} {k : α → Op β} (h : ∀ a, Op.Keeps R (k a)) : Op.Keeps R (reading g k) :=
  fun s => h (g s) s

theorem Op.keeps_bind (c : Chains R) {x : Op α} {k : α → Op β} (hx : Op.Keeps R x) (hk : ∀ a, Op.Keeps R (k a)) :
    Op.Keeps R (x >>= k) := by
  intro s
  have h := hx s
  cases e : x s with
  | ok a t =>
    rw [final_ok e] at h
    have h2 := hk a t
    rw [Op.final] at h2 ⊢
    rw [bind_ok e]
    exact c.trans s t _ h h2
  | error f t => rw [final_error e] at h; rw [final_error (bind_error e)]; exact h

theorem Op.keeps_forUp (c : Chains R) {body : Nat → Op Unit} (h : ∀ i, Op.Keeps R (body i)) (n i : Nat) :
    Op.Keeps R (forUp body n i) := by
  induction n generalizing i with
  | zero => exact fun s => c.refl s
  | succ n ih => exact Op.keeps_bind c (h i) fun _ => ih (i + 1)

theorem Op.keeps_times (c : Chains R) {body : Op Unit} (h : Op.Keeps R body) (n : Nat) :
    Op.Keeps R (times body n) := by
  induction n with
  | zero => exact fun s => c.refl s
  | succ n ih => exact Op.keeps_bind c h fun _ => ih

theorem Op.Keeps.weaken {x : Op α} (h : Op.Keeps R x) (w : ∀ s t, R s t → Q s t) : Op.Keeps Q x := fun s => w _ _ (h s)

end Keeps

section RaisesOnly

variable {P : FaultCode → Prop} {α β : Type}

theorem Op.raisesOnly_pure (a : α) : Op.RaisesOnly P (pure a) := by
  intro s f t e; rw [pure_apply] at e; nomatch e

theorem Op.raisesOnly_update (g : State → State) : Op.RaisesOnly P (update g) := by
  intro s f t e; rw [update_apply] at e; nomatch e

theorem Op.raisesOnly_raise {f : FaultCode} (h : P f) : Op.RaisesOnly P (raise f : Op α) := by
  intro s g t e
  rw [raise_apply] at e
  injection e with e1
  exact e1 ▸ h

theorem Op.raisesOnly_raiseIf {f : FaultCode} (h : P f) (b : Bool) : Op.RaisesOnly P (raiseIf b f) := by
  intro s g t e
  rw [raiseIf_apply] at e
  split at e
  · injection e with e1
    exact e1 ▸ h
  · nomatch e

theorem Op.raisesOnly_reading {g : State → α} {k : α → Op β} (h : ∀ a, Op.RaisesOnly P (k a)) :
    Op.RaisesOnly P (reading g k) := fun s => h (g s) s

theorem Op.raisesOnly_bind {x : Op α} {k : α → Op β} (hx : Op.RaisesOnly P x) (hk : ∀ a, Op.RaisesOnly P (k a)) :
    Op.RaisesOnly P (x >>= k) := by
  intro s f t e
  cases h : x s with
  | ok a u => rw [bind_ok h] at e; exact hk a u f t e
  | error g u => rw [bind_error h] at e; injection e with e1; exact e1 ▸ hx s g u h

theorem Op.raisesOnly_forUp {body : Nat → Op Unit} (h : ∀ i, Op.RaisesOnly P (body i)) (n i : Nat) :
    Op.RaisesOnly P (forUp body n i) := by
  induction n generalizing i with
  | zero => exact Op.raisesOnly_pure ()
  | succ n ih => exact Op.raisesOnly_bind (h i) fun _ => ih (i + 1)

theorem Op.raisesOnly_times {body : Op Unit} (h : Op.RaisesOnly P body) (n : Nat) :
    Op.RaisesOnly P (times body n) := by
  induction n with
  | zero => exact Op.raisesOnly_pure ()
  | succ n ih => exact Op.raisesOnly_bind h fun _ => ih

end RaisesOnly

/-! ### Frames -/

/-- Changes `SPOS` only. -/
def CursorOnly (s t : State) : Prop :=
  t = { s with spos := t.spos }

theorem cursorOnly_chains : Chains CursorOnly :=
  ⟨fun _ => rfl, fun s t u h1 h2 => by unfold CursorOnly at *; rw [h2, h1]⟩

/-- Changes the stream only: `STR`, `SPOS`, `SLEN`. -/
def StreamOnly (s t : State) : Prop :=
  t = { s with str := t.str, spos := t.spos, slen := t.slen }

theorem streamOnly_chains : Chains StreamOnly :=
  ⟨fun _ => rfl, fun s t u h1 h2 => by unfold StreamOnly at *; rw [h2, h1]⟩

/-- Changes the stream, `YCNT` and `STATUS` only. -/
def ScanOutOnly (s t : State) : Prop :=
  t = { s with str := t.str, spos := t.spos, slen := t.slen, ycnt := t.ycnt, status := t.status }

theorem scanOutOnly_chains : Chains ScanOutOnly :=
  ⟨fun _ => rfl, fun s t u h1 h2 => by unfold ScanOutOnly at *; rw [h2, h1]⟩

/-- Changes the stream, `PLN`, `YCNT` and `STATUS` only. -/
def FileOutOnly (s t : State) : Prop :=
  t = { s with str := t.str, spos := t.spos, slen := t.slen, pln := t.pln, ycnt := t.ycnt, status := t.status }

theorem fileOutOnly_chains : Chains FileOutOnly :=
  ⟨fun _ => rfl, fun s t u h1 h2 => by unfold FileOutOnly at *; rw [h2, h1]⟩

/-- Changes `PLN` only. -/
def PlanesOnly (s t : State) : Prop :=
  t = { s with pln := t.pln }

theorem planesOnly_chains : Chains PlanesOnly :=
  ⟨fun _ => rfl, fun s t u h1 h2 => by unfold PlanesOnly at *; rw [h2, h1]⟩

/-- Changes `IMG` only. -/
def ImageOnly (s t : State) : Prop :=
  t = { s with img := t.img }

theorem imageOnly_chains : Chains ImageOnly :=
  ⟨fun _ => rfl, fun s t u h1 h2 => by unfold ImageOnly at *; rw [h2, h1]⟩

/-- Changes `PLN` and `SPOS` only. -/
def RowInOnly (s t : State) : Prop :=
  t = { s with pln := t.pln, spos := t.spos }

theorem rowInOnly_chains : Chains RowInOnly :=
  ⟨fun _ => rfl, fun s t u h1 h2 => by unfold RowInOnly at *; rw [h2, h1]⟩

/-- Changes `PLN`, `SPOS`, `YCNT` and `STATUS` only. -/
def ScanInOnly (s t : State) : Prop :=
  t = { s with pln := t.pln, spos := t.spos, ycnt := t.ycnt, status := t.status }

theorem scanInOnly_chains : Chains ScanInOnly :=
  ⟨fun _ => rfl, fun s t u h1 h2 => by unfold ScanInOnly at *; rw [h2, h1]⟩

/-- Changes `SPOS`, `WIDTH` and `HEIGHT` only. -/
def HeaderInOnly (s t : State) : Prop :=
  t = { s with spos := t.spos, width := t.width, height := t.height }

theorem headerInOnly_chains : Chains HeaderInOnly :=
  ⟨fun _ => rfl, fun s t u h1 h2 => by unfold HeaderInOnly at *; rw [h2, h1]⟩

/-- Changes `SPOS`, `WIDTH`, `HEIGHT`, `PLN`, `IMG`, `YCNT` and `STATUS` only. -/
def FileInOnly (s t : State) : Prop :=
  t = { s with spos := t.spos, width := t.width, height := t.height, pln := t.pln, img := t.img, ycnt := t.ycnt, status := t.status }

theorem fileInOnly_chains : Chains FileInOnly :=
  ⟨fun _ => rfl, fun s t u h1 h2 => by unfold FileInOnly at *; rw [h2, h1]⟩

theorem CursorOnly.stream {s t : State} (h : CursorOnly s t) : StreamOnly s t := by
  unfold CursorOnly at h; unfold StreamOnly; rw [h]

theorem StreamOnly.scanOut {s t : State} (h : StreamOnly s t) : ScanOutOnly s t := by
  unfold StreamOnly at h; unfold ScanOutOnly; rw [h]

theorem ScanOutOnly.fileOut {s t : State} (h : ScanOutOnly s t) : FileOutOnly s t := by
  unfold ScanOutOnly at h; unfold FileOutOnly; rw [h]

theorem StreamOnly.fileOut {s t : State} (h : StreamOnly s t) : FileOutOnly s t := by
  unfold StreamOnly at h; unfold FileOutOnly; rw [h]

theorem PlanesOnly.fileOut {s t : State} (h : PlanesOnly s t) : FileOutOnly s t := by
  unfold PlanesOnly at h; unfold FileOutOnly; rw [h]

theorem PlanesOnly.rowIn {s t : State} (h : PlanesOnly s t) : RowInOnly s t := by
  unfold PlanesOnly at h; unfold RowInOnly; rw [h]

theorem CursorOnly.rowIn {s t : State} (h : CursorOnly s t) : RowInOnly s t := by
  unfold CursorOnly at h; unfold RowInOnly; rw [h]

theorem RowInOnly.scanIn {s t : State} (h : RowInOnly s t) : ScanInOnly s t := by
  unfold RowInOnly at h; unfold ScanInOnly; rw [h]

theorem CursorOnly.headerIn {s t : State} (h : CursorOnly s t) : HeaderInOnly s t := by
  unfold CursorOnly at h; unfold HeaderInOnly; rw [h]

theorem HeaderInOnly.fileIn {s t : State} (h : HeaderInOnly s t) : FileInOnly s t := by
  unfold HeaderInOnly at h; unfold FileInOnly; rw [h]

theorem ScanInOnly.fileIn {s t : State} (h : ScanInOnly s t) : FileInOnly s t := by
  unfold ScanInOnly at h; unfold FileInOnly; rw [h]

theorem ImageOnly.fileIn {s t : State} (h : ImageOnly s t) : FileInOnly s t := by
  unfold ImageOnly at h; unfold FileInOnly; rw [h]

/-! ### Stream primitives -/

/-- `GetByte(F)` with a byte left (R46). -/
theorem getByte_ok {f : FaultCode} {s : State} (h : s.spos.toNat < s.slen.toNat) :
    getByte f s = .ok (s.readStr s.spos.toNat) { s with spos := s.spos + 1#32 } := by rw [getByte, if_pos h]

/-- `GetByte(F)` at the end of the stream (R46): nothing is read, nothing changes. -/
theorem getByte_error {f : FaultCode} {s : State} (h : ¬ s.spos.toNat < s.slen.toNat) : getByte f s = .error f s := by
  rw [getByte, if_neg h]

/-- `GetByte` moves `SPOS` and nothing else. -/
theorem getByte_keeps (f : FaultCode) : Op.Keeps CursorOnly (getByte f) := by
  intro s
  by_cases h : s.spos.toNat < s.slen.toNat
  · rw [final_ok (getByte_ok h)]; rfl
  · rw [final_error (getByte_error h)]; rfl

theorem getByte_raisesOnly (f : FaultCode) : Op.RaisesOnly (· = f) (getByte f) := by
  intro s g t e
  by_cases h : s.spos.toNat < s.slen.toNat
  · rw [getByte_ok h] at e; nomatch e
  · rw [getByte_error h] at e; injection e with e1; exact e1.symm

/-- `SPOS + 1` as a number, while it is inside the stream. -/
theorem spos_succ {s : State} {n : Nat} (h : s.spos.toNat < n) (hn : n < 2 ^ 32) :
    (s.spos + 1#32).toNat = s.spos.toNat + 1 := by
  rw [BitVec.toNat_add]; simp only [BitVec.toNat_ofNat]; omega

/-- `PutByte(b)` with room (R48). -/
theorem putByte_ok {b : Byte} {s : State} (h : s.spos.toNat < s.cfg.strBytes.toNat) :
    putByte b s = .ok () (s.pushByte b) := by rw [putByte, if_pos h]

/-- `PutByte(b)` with `STR` full (R48): nothing is written. -/
theorem putByte_error {b : Byte} {s : State} (h : ¬ s.spos.toNat < s.cfg.strBytes.toNat) :
    putByte b s = .error .ioError s := by rw [putByte, if_neg h]

/-- `PutByte` changes `STR`, `SPOS` and `SLEN` and nothing else. -/
theorem putByte_keeps (b : Byte) : Op.Keeps StreamOnly (putByte b) := by
  intro s
  by_cases h : s.spos.toNat < s.cfg.strBytes.toNat
  · rw [final_ok (putByte_ok h)]; rfl
  · rw [final_error (putByte_error h)]; rfl

theorem putByte_raisesOnly (b : Byte) : Op.RaisesOnly (· = .ioError) (putByte b) := by
  intro s g t e
  by_cases h : s.spos.toNat < s.cfg.strBytes.toNat
  · rw [putByte_ok h] at e; nomatch e
  · rw [putByte_error h] at e; injection e with e1; exact e1.symm

/-- The state after `PutByte` of each byte in order, all of them with room. -/
def State.pushBytes : List Byte → State → State
  | [], s => s
  | b :: bs, s => State.pushBytes bs (s.pushByte b)

theorem putBytes_nil (s : State) : putBytes [] s = .ok () s := rfl

theorem putBytes_cons (b : Byte) (bs : List Byte) : putBytes (b :: bs) = (putByte b >>= fun _ => putBytes bs) := rfl

/-- Writing a byte sequence is writing its parts in order. -/
theorem putBytes_append (as bs : List Byte) : putBytes (as ++ bs) = (putBytes as >>= fun _ => putBytes bs) := by
  induction as with
  | nil => rfl
  | cons a as ih =>
    funext s
    rw [List.cons_append, putBytes_cons, putBytes_cons, ih]
    simp only [bind_apply]
    cases putByte a s <;> rfl

/-- `PutByte` of each byte in order (R48): all of them when they find room, otherwise those that do and then IoError. -/
theorem putBytes_apply (bs : List Byte) (s : State) (h : s.spos.toNat ≤ s.cfg.strBytes.toNat ∨ bs ≠ [] ) :
    putBytes bs s =
      if s.spos.toNat + bs.length ≤ s.cfg.strBytes.toNat then .ok () (s.pushBytes bs)
      else .error .ioError (s.pushBytes (bs.take (s.cfg.strBytes.toNat - s.spos.toNat))) := by
  induction bs generalizing s with
  | nil => rw [if_pos (by simpa using h)]; rfl
  | cons b bs ih =>
    have hc := s.cfg.strBytes.isLt
    rw [putBytes_cons]
    by_cases hr : s.spos.toNat < s.cfg.strBytes.toNat
    · rw [bind_ok (putByte_ok hr)]
      have hs : (s.pushByte b).spos.toNat = s.spos.toNat + 1 := spos_succ hr hc
      have hcfg : (s.pushByte b).cfg = s.cfg := rfl
      rw [ih _ (.inl (by rw [hs, hcfg]; omega)), hs, hcfg, List.length_cons]
      have e : s.cfg.strBytes.toNat - s.spos.toNat = (s.cfg.strBytes.toNat - (s.spos.toNat + 1)) + 1 := by omega
      rw [e, List.take_succ_cons]
      simp only [Nat.add_assoc, Nat.add_comm 1]
      rfl
    · rw [bind_error (putByte_error hr), if_neg (by simp only [List.length_cons]; omega)]
      have e : s.cfg.strBytes.toNat - s.spos.toNat = 0 := by omega
      rw [e]; rfl

theorem putBytes_keeps (bs : List Byte) : Op.Keeps StreamOnly (putBytes bs) := by
  induction bs with
  | nil => exact fun s => rfl
  | cons b bs ih =>
    exact Op.keeps_bind streamOnly_chains (putByte_keeps b) fun _ => ih

theorem putBytes_raisesOnly (bs : List Byte) : Op.RaisesOnly (· = .ioError) (putBytes bs) := by
  induction bs with
  | nil => exact Op.raisesOnly_pure ()
  | cons b bs ih => exact Op.raisesOnly_bind (putByte_raisesOnly b) fun _ => ih

/-! ### Checks -/

/-- `CheckGeom` changes nothing: it passes or raises ConfigFault (R166). -/
theorem checkGeom_apply (planes : State → Nat) (useImg : Bool) (s : State) :
    checkGeom planes useImg s = if s.geomFits (planes s) useImg then .ok () s else .error .configFault s := rfl

theorem checkRow_apply (s : State) :
    checkRow s = if s.ycnt.toNat < s.height.toNat then .ok () s else .error .configFault s := rfl

theorem checkPlaneRow_apply (k : BitVec 2) (s : State) :
    checkPlaneRow k s =
      if k.toNat < s.planes ∧ s.ycnt.toNat < s.height.toNat then .ok () s else .error .configFault s := rfl

theorem checkPixel_apply (s : State) :
    checkPixel s =
      if s.px.toNat < s.width.toNat ∧ s.py.toNat < s.height.toNat then .ok () s else .error .configFault s := rfl

/-- A check that fails ends the command; one that passes changes nothing. -/
theorem bind_check {α : Type} {c : Op Unit} {p : Prop} [Decidable p] {f : FaultCode} {s : State}
    (h : c s = if p then .ok () s else .error f s) (k : Unit → Op α) :
    (c >>= k) s = if p then k () s else .error f s := by
  rw [bind_apply, h]; by_cases hp : p <;> simp only [hp, if_true, if_false]

/-- What `CheckGeom` tests, written out (R166). -/
theorem State.geomFits_iff (planes : Nat) (useImg : Bool) (s : State) :
    s.geomFits planes useImg = true ↔
      s.width ≠ 0#32 ∧ s.height ≠ 0#32 ∧ planes * s.pixels ≤ s.cfg.plnBytes ∧
        (useImg = true → s.pixels * s.channels ≤ s.cfg.imgWords) := by
  cases useImg <;> simp [State.geomFits, and_assoc]

/-! ### The frame of a command -/

theorem settle_ok (w : Word) (t : State) : settle w (.ok () t) = .next t := rfl

theorem settle_error (w : Word) (f : FaultCode) (t : State) : settle w (.error f t) = .next (t.enterFault f w) := rfl

/-- Whatever the pseudocode does, the command answers a next state. -/
theorem settle_next (w : Word) (r : EStateM.Result FaultCode State Unit) : ∃ t, settle w r = .next t := by
  cases r with
  | ok _ t => exact ⟨t, rfl⟩
  | error f t => exact ⟨t.enterFault f w, rfl⟩

/-- Everything a command can do (R150, R168, U10). -/
theorem command_cases (w : Word) (body : Op Unit) (s : State) :
    (s.busy = true ∧ command w body s = .refused .commandWhileBusy) ∨
    (s.busy = false ∧ s.err ≠ 0#4 ∧ command w body s = .next s) ∨
    (s.busy = false ∧ s.err = 0#4 ∧ command w body s = settle w (body s)) := by
  unfold command
  cases s.busy with
  | true => exact .inl ⟨rfl, rfl⟩
  | false =>
    by_cases h : s.err = 0#4
    · exact .inr (.inr ⟨rfl, h, by rw [if_neg (by decide), if_neg (not_not.mpr h)]⟩)
    · exact .inr (.inl ⟨rfl, h, by rw [if_neg (by decide), if_pos h]⟩)

theorem busy_eq_false {s : State} (h : s.decoding = none) : s.busy = false := by rw [State.busy, h]; rfl

/-- A machine ready for a command runs its pseudocode (R150). -/
theorem command_ready {w : Word} {body : Op Unit} {s : State} (h : s.Ready) : command w body s = settle w (body s) := by
  unfold command
  rw [busy_eq_false h.1, if_neg (by decide), if_neg (not_not.mpr h.2)]

/-- In the fault state a command is ignored (R168). -/
theorem command_faulted {w : Word} {body : Op Unit} {s : State} (hd : s.decoding = none) (h : s.err ≠ 0#4) :
    command w body s = .next s := by
  unfold command
  rw [busy_eq_false hd, if_neg (by decide), if_pos h]

/-- Everything a command that answers a next state can have done: nothing, in the fault state; its pseudocode to the end; or
its pseudocode up to a `raise`, and fault entry. -/
theorem command_answers {w : Word} {body : Op Unit} {s t : State} (h : command w body s = .next t) :
    (s.err ≠ 0#4 ∧ t = s) ∨
    (s.Ready ∧ body s = .ok () t) ∨
    (s.Ready ∧ ∃ f u, body s = .error f u ∧ t = u.enterFault f w) := by
  rcases command_cases w body s with ⟨_, e⟩ | ⟨_, he, e⟩ | ⟨hb, he, e⟩
  · rw [e] at h; nomatch h
  · rw [e] at h; injection h with h; exact .inl ⟨he, h.symm⟩
  · have hd : s.decoding = none := by
      cases hd : s.decoding with
      | none => rfl
      | some d => rw [State.busy, hd] at hb; nomatch hb
    rw [e] at h
    cases r : body s with
    | ok u v => rw [r] at h; injection h with h; exact .inr (.inl ⟨⟨hd, he⟩, by rw [h]⟩)
    | error f v => rw [r] at h; injection h with h; exact .inr (.inr ⟨⟨hd, he⟩, f, v, rfl, h.symm⟩)

/-- The memories of a hard reset list nothing, so they have the canonical form. -/
theorem State.resetWith_wf (c : Config) (n : Nat) (p : List HostAction) :
    Memory.wf (State.resetWith c n p).img = true ∧ Memory.wf (State.resetWith c n p).pln = true ∧
      Memory.wf (State.resetWith c n p).str = true := ⟨rfl, rfl, rfl⟩

end Sys2Proof.Machine
end

