-- ==== Sys2Proof/Laws/Frames.lean ====
section
/-! SUPPORT. What each piece of a command's pseudocode leaves unchanged, whether it runs to its end or raises, and the
faults it can raise: one pair of lemmas per piece, assembled from those of its parts. -/

namespace Sys2Proof.Machine

/-! ### Header Codec -/

theorem writeHeader_keeps : Op.Keeps StreamOnly writeHeader := Op.keeps_reading putBytes_keeps

theorem writeHeader_raisesOnly : Op.RaisesOnly (· = .ioError) writeHeader := Op.raisesOnly_reading putBytes_raisesOnly

theorem readLineFrom_keeps (n : Nat) (acc : List Byte) : Op.Keeps CursorOnly (readLineFrom n acc) := by
  induction n generalizing acc with
  | zero => exact Op.keeps_raise cursorOnly_chains _
  | succ n ih =>
    refine Op.keeps_bind cursorOnly_chains (getByte_keeps _) fun b => ?_
    split
    · exact Op.keeps_pure cursorOnly_chains _
    · exact ih _

theorem readLineFrom_raisesOnly (n : Nat) (acc : List Byte) :
    Op.RaisesOnly (· = .malformedHeader) (readLineFrom n acc) := by
  induction n generalizing acc with
  | zero => exact Op.raisesOnly_raise rfl
  | succ n ih =>
    refine Op.raisesOnly_bind (getByte_raisesOnly _) fun b => ?_
    split
    · exact Op.raisesOnly_pure _
    · exact ih _

theorem readLine_keeps : Op.Keeps CursorOnly readLine := Op.keeps_reading fun n => readLineFrom_keeps n []

theorem readLine_raisesOnly : Op.RaisesOnly (· = .malformedHeader) readLine :=
  Op.raisesOnly_reading fun n => readLineFrom_raisesOnly n []

theorem takeDimensions_keeps (seen : Bool) (line : List Byte) : Op.Keeps HeaderInOnly (takeDimensions seen line) := by
  unfold takeDimensions
  split
  · split
    · exact Op.keeps_update fun _ => rfl
    · exact Op.keeps_raise headerInOnly_chains _
  · exact Op.keeps_raise headerInOnly_chains _

theorem takeDimensions_raisesOnly (seen : Bool) (line : List Byte) :
    Op.RaisesOnly (· = .malformedHeader) (takeDimensions seen line) := by
  unfold takeDimensions
  split
  · split
    · exact Op.raisesOnly_update _
    · exact Op.raisesOnly_raise rfl
  · exact Op.raisesOnly_raise rfl

theorem readFields_keeps (n : Nat) (seen : Bool) : Op.Keeps HeaderInOnly (readFields n seen) := by
  induction n generalizing seen with
  | zero => exact Op.keeps_raise headerInOnly_chains _
  | succ n ih =>
    refine Op.keeps_bind headerInOnly_chains ((readLine_keeps).weaken fun _ _ h => h.headerIn) fun line => ?_
    split
    · exact ih _
    · split
      · exact takeDimensions_keeps _ _
      · exact ih _

theorem readFields_raisesOnly (n : Nat) (seen : Bool) : Op.RaisesOnly (· = .malformedHeader) (readFields n seen) := by
  induction n generalizing seen with
  | zero => exact Op.raisesOnly_raise rfl
  | succ n ih =>
    refine Op.raisesOnly_bind readLine_raisesOnly fun line => ?_
    split
    · exact ih _
    · split
      · exact takeDimensions_raisesOnly _ _
      · exact ih _

theorem readHeader_keeps : Op.Keeps HeaderInOnly readHeader :=
  Op.keeps_bind headerInOnly_chains ((readLine_keeps).weaken fun _ _ h => h.headerIn) fun _ =>
    Op.keeps_bind headerInOnly_chains (Op.keeps_raiseIf headerInOnly_chains _ _) fun _ =>
      Op.keeps_reading fun n => readFields_keeps n false

theorem readHeader_raisesOnly : Op.RaisesOnly (· = .malformedHeader) readHeader :=
  Op.raisesOnly_bind readLine_raisesOnly fun _ =>
    Op.raisesOnly_bind (Op.raisesOnly_raiseIf (P := (· = .malformedHeader)) rfl _) fun _ =>
      Op.raisesOnly_reading fun n => readFields_raisesOnly n false

/-! ### Plane buffer -/

/-- The loop of IMG2PLN as a plain write: it never raises. -/
theorem quantizeImage_apply (s : State) : quantizeImage s = .ok () (State.iterate State.quantizePixel s.pixels 0 s) :=
  forUp_update _ _ _ _

/-- The loop of PLN2IMG as a plain write: it never raises. -/
theorem unpackImage_apply (s : State) : unpackImage s = .ok () (State.iterate State.unpackPixel s.pixels 0 s) :=
  forUp_update _ _ _ _

theorem unpackImage_final (s : State) : unpackImage.final s = State.iterate State.unpackPixel s.pixels 0 s :=
  final_ok (unpackImage_apply s)

theorem quantizePixel_only (p : Nat) (s : State) : PlanesOnly s (s.quantizePixel p) := by
  unfold State.quantizePixel
  split <;> rfl

theorem unpackPixel_only (p : Nat) (s : State) : ImageOnly s (s.unpackPixel p) := by
  unfold State.unpackPixel
  split <;> rfl

theorem quantizeImage_only (n i : Nat) (s : State) : PlanesOnly s (State.iterate State.quantizePixel n i s) :=
  State.iterate_induct (P := PlanesOnly s) (fun j t _ _ h => planesOnly_chains.trans _ _ _ h (quantizePixel_only j t)) rfl

theorem unpackImage_only (n i : Nat) (s : State) : ImageOnly s (State.iterate State.unpackPixel n i s) :=
  State.iterate_induct (P := ImageOnly s) (fun j t _ _ h => imageOnly_chains.trans _ _ _ h (unpackPixel_only j t)) rfl

/-! ### Scanline Encoder -/

theorem encodePlaneRow_keeps (k y : Nat) : Op.Keeps StreamOnly (encodePlaneRow k y) := Op.keeps_reading putBytes_keeps

theorem encodePlaneRow_raisesOnly (k y : Nat) : Op.RaisesOnly (· = .ioError) (encodePlaneRow k y) :=
  Op.raisesOnly_reading putBytes_raisesOnly

theorem encodePlaneRows_keeps (y : Nat) (ks : List Nat) : Op.Keeps StreamOnly (encodePlaneRows y ks) := by
  induction ks with
  | nil => exact Op.keeps_pure streamOnly_chains _
  | cons k ks ih =>
    exact Op.keeps_bind streamOnly_chains (encodePlaneRow_keeps k y) fun _ => ih

theorem encodePlaneRows_raisesOnly (y : Nat) (ks : List Nat) : Op.RaisesOnly (· = .ioError) (encodePlaneRows y ks) := by
  induction ks with
  | nil => exact Op.raisesOnly_pure _
  | cons k ks ih => exact Op.raisesOnly_bind (encodePlaneRow_raisesOnly k y) fun _ => ih

theorem encodeScanAs_keeps (b : Bool) (y : Nat) : Op.Keeps StreamOnly (encodeScanAs b y) := by
  cases b with
  | true =>
    exact Op.keeps_bind streamOnly_chains (Op.keeps_reading putBytes_keeps) fun _ =>
      Op.keeps_reading fun ks => encodePlaneRows_keeps y ks
  | false =>
    show Op.Keeps _ (encodeScanFlat y)
    exact Op.keeps_reading fun w => Op.keeps_forUp streamOnly_chains
      (fun x => Op.keeps_reading putBytes_keeps) w 0

theorem encodeScanAs_raisesOnly (b : Bool) (y : Nat) : Op.RaisesOnly (· = .ioError) (encodeScanAs b y) := by
  cases b with
  | true =>
    exact Op.raisesOnly_bind (Op.raisesOnly_reading putBytes_raisesOnly) fun _ =>
      Op.raisesOnly_reading fun ks => encodePlaneRows_raisesOnly y ks
  | false =>
    show Op.RaisesOnly _ (encodeScanFlat y)
    exact Op.raisesOnly_reading fun w => Op.raisesOnly_forUp (fun x => Op.raisesOnly_reading putBytes_raisesOnly) w 0

theorem encodeScan_keeps : Op.Keeps ScanOutOnly encodeScan :=
  Op.keeps_reading fun c =>
    Op.keeps_bind scanOutOnly_chains ((encodeScanAs_keeps c.1 c.2).weaken fun _ _ h => h.scanOut) fun _ =>
      Op.keeps_update fun _ => rfl

theorem encodeScan_raisesOnly : Op.RaisesOnly (· = .ioError) encodeScan :=
  Op.raisesOnly_reading fun c => Op.raisesOnly_bind (encodeScanAs_raisesOnly c.1 c.2) fun _ => Op.raisesOnly_update _

/-! ### Scanline Decoder -/

theorem storeAt_keeps (dst : Option Nat) (i : Nat) (v : Byte) : Op.Keeps PlanesOnly (storeAt dst i v) := by
  cases dst with
  | none => exact Op.keeps_pure planesOnly_chains _
  | some a => exact Op.keeps_update fun _ => rfl

theorem storeAt_raisesOnly {P : FaultCode → Prop} (dst : Option Nat) (i : Nat) (v : Byte) :
    Op.RaisesOnly P (storeAt dst i v) := by
  cases dst with
  | none => exact Op.raisesOnly_pure _
  | some a => exact Op.raisesOnly_update _

theorem checkRun_keeps (done n : Nat) : Op.Keeps RowInOnly (checkRun done n) :=
  Op.keeps_reading fun b => Op.keeps_raiseIf rowInOnly_chains b _

/-- The faults of the row decoder (R136). -/
abbrev RowFaults (f : FaultCode) : Prop := f = .formatFault ∨ f = .truncatedData

theorem checkRun_raisesOnly (done n : Nat) : Op.RaisesOnly RowFaults (checkRun done n) :=
  Op.raisesOnly_reading fun b => Op.raisesOnly_raiseIf (.inl rfl) b

theorem getData_raisesOnly : Op.RaisesOnly RowFaults (getByte .truncatedData) := fun s f t e =>
  .inr (getByte_raisesOnly _ s f t e)

theorem repeatRun_keeps (n : Nat) (dst : Option Nat) (done : Nat) : Op.Keeps RowInOnly (repeatRun n dst done) :=
  Op.keeps_bind rowInOnly_chains (checkRun_keeps done n) fun _ =>
    Op.keeps_bind rowInOnly_chains ((getByte_keeps _).weaken fun _ _ h => h.rowIn) fun v =>
      Op.keeps_forUp rowInOnly_chains
        (fun i => (storeAt_keeps dst (done + i) v).weaken fun _ _ h => h.rowIn) n 0

theorem repeatRun_raisesOnly (n : Nat) (dst : Option Nat) (done : Nat) :
    Op.RaisesOnly RowFaults (repeatRun n dst done) :=
  Op.raisesOnly_bind (checkRun_raisesOnly done n) fun _ =>
    Op.raisesOnly_bind getData_raisesOnly fun v => Op.raisesOnly_forUp (fun i => storeAt_raisesOnly dst (done + i) v) n 0

theorem literalRun_keeps (n : Nat) (dst : Option Nat) (done : Nat) : Op.Keeps RowInOnly (literalRun n dst done) :=
  Op.keeps_bind rowInOnly_chains (checkRun_keeps done n) fun _ =>
    Op.keeps_forUp rowInOnly_chains
      (fun i => Op.keeps_bind rowInOnly_chains ((getByte_keeps _).weaken fun _ _ h => h.rowIn) fun v =>
        (storeAt_keeps dst (done + i) v).weaken fun _ _ h => h.rowIn) n 0

theorem literalRun_raisesOnly (n : Nat) (dst : Option Nat) (done : Nat) :
    Op.RaisesOnly RowFaults (literalRun n dst done) :=
  Op.raisesOnly_bind (checkRun_raisesOnly done n) fun _ =>
    Op.raisesOnly_forUp (fun i => Op.raisesOnly_bind getData_raisesOnly fun v => storeAt_raisesOnly dst (done + i) v) n 0

theorem controlRun_keeps (c : Byte) (dst : Option Nat) (done : Nat) : Op.Keeps RowInOnly (controlRun c dst done) := by
  unfold controlRun
  split
  · exact Op.keeps_raise rowInOnly_chains _
  · split
    · exact repeatRun_keeps _ _ _
    · exact literalRun_keeps _ _ _

theorem controlRun_raisesOnly (c : Byte) (dst : Option Nat) (done : Nat) :
    Op.RaisesOnly RowFaults (controlRun c dst done) := by
  unfold controlRun
  split
  · exact Op.raisesOnly_raise (.inl rfl)
  · split
    · exact repeatRun_raisesOnly _ _ _
    · exact literalRun_raisesOnly _ _ _

theorem decodeRun_keeps (dst : Option Nat) (done : Nat) : Op.Keeps RowInOnly (decodeRun dst done) :=
  Op.keeps_bind rowInOnly_chains ((getByte_keeps _).weaken fun _ _ h => h.rowIn) fun c =>
    Op.keeps_bind rowInOnly_chains (controlRun_keeps c dst done) fun _ =>
      Op.keeps_pure rowInOnly_chains _

theorem decodeRun_raisesOnly (dst : Option Nat) (done : Nat) : Op.RaisesOnly RowFaults (decodeRun dst done) :=
  Op.raisesOnly_bind getData_raisesOnly fun c =>
    Op.raisesOnly_bind (controlRun_raisesOnly c dst done) fun _ => Op.raisesOnly_pure _

theorem decodeRuns_keeps (dst : Option Nat) (n done : Nat) : Op.Keeps RowInOnly (decodeRuns dst n done) := by
  induction n generalizing done with
  | zero => exact Op.keeps_pure rowInOnly_chains _
  | succ n ih =>
    refine Op.keeps_reading fun more => ?_
    cases more with
    | true => exact Op.keeps_bind rowInOnly_chains (decodeRun_keeps dst done) fun m => ih (done + m)
    | false => exact Op.keeps_pure rowInOnly_chains _

theorem decodeRuns_raisesOnly (dst : Option Nat) (n done : Nat) : Op.RaisesOnly RowFaults (decodeRuns dst n done) := by
  induction n generalizing done with
  | zero => exact Op.raisesOnly_pure _
  | succ n ih =>
    refine Op.raisesOnly_reading fun more => ?_
    cases more with
    | true => exact Op.raisesOnly_bind (decodeRun_raisesOnly dst done) fun m => ih (done + m)
    | false => exact Op.raisesOnly_pure _

theorem rleDecodeRow_keeps (dst : Option Nat) : Op.Keeps RowInOnly (rleDecodeRow dst) :=
  Op.keeps_reading fun w => decodeRuns_keeps dst w 0

theorem rleDecodeRow_raisesOnly (dst : Option Nat) : Op.RaisesOnly RowFaults (rleDecodeRow dst) :=
  Op.raisesOnly_reading fun w => decodeRuns_raisesOnly dst w 0

theorem decodeRows_keeps (ds : List (Option Nat)) : Op.Keeps RowInOnly (decodeRows ds) := by
  induction ds with
  | nil => exact Op.keeps_pure rowInOnly_chains _
  | cons d ds ih => exact Op.keeps_bind rowInOnly_chains (rleDecodeRow_keeps d) fun _ => ih

theorem decodeRows_raisesOnly (ds : List (Option Nat)) : Op.RaisesOnly RowFaults (decodeRows ds) := by
  induction ds with
  | nil => exact Op.raisesOnly_pure _
  | cons d ds ih => exact Op.raisesOnly_bind (rleDecodeRow_raisesOnly d) fun _ => ih

theorem skipMarker_keeps : Op.Keeps CursorOnly skipMarker :=
  Op.keeps_times cursorOnly_chains
    (Op.keeps_bind cursorOnly_chains (getByte_keeps _) fun _ => Op.keeps_pure cursorOnly_chains _) 4

theorem skipMarker_raisesOnly : Op.RaisesOnly RowFaults skipMarker :=
  Op.raisesOnly_times (Op.raisesOnly_bind getData_raisesOnly fun _ => Op.raisesOnly_pure _) 4

theorem flatPixel_keeps (x : Nat) (ds : List (Option Nat)) : Op.Keeps RowInOnly (flatPixel x ds) := by
  induction ds with
  | nil => exact Op.keeps_pure rowInOnly_chains _
  | cons d ds ih =>
    exact Op.keeps_bind rowInOnly_chains ((getByte_keeps _).weaken fun _ _ h => h.rowIn) fun v =>
      Op.keeps_bind rowInOnly_chains ((storeAt_keeps d x v).weaken fun _ _ h => h.rowIn) fun _ => ih

theorem flatPixel_raisesOnly (x : Nat) (ds : List (Option Nat)) : Op.RaisesOnly RowFaults (flatPixel x ds) := by
  induction ds with
  | nil => exact Op.raisesOnly_pure _
  | cons d ds ih =>
    exact Op.raisesOnly_bind getData_raisesOnly fun v => Op.raisesOnly_bind (storeAt_raisesOnly d x v) fun _ => ih

theorem decodeScanAs_keeps (b : Bool) (ds : List (Option Nat)) : Op.Keeps RowInOnly (decodeScanAs b ds) := by
  cases b with
  | true =>
    exact Op.keeps_bind rowInOnly_chains ((skipMarker_keeps).weaken fun _ _ h => h.rowIn) fun _ =>
      decodeRows_keeps ds
  | false =>
    show Op.Keeps _ (decodeScanFlat ds)
    exact Op.keeps_reading fun w => Op.keeps_forUp rowInOnly_chains
      (fun x => flatPixel_keeps x ds) w 0

theorem decodeScanAs_raisesOnly (b : Bool) (ds : List (Option Nat)) : Op.RaisesOnly RowFaults (decodeScanAs b ds) := by
  cases b with
  | true => exact Op.raisesOnly_bind skipMarker_raisesOnly fun _ => decodeRows_raisesOnly ds
  | false =>
    show Op.RaisesOnly _ (decodeScanFlat ds)
    exact Op.raisesOnly_reading fun w => Op.raisesOnly_forUp (fun x => flatPixel_raisesOnly x ds) w 0

theorem decodeScan_keeps : Op.Keeps ScanInOnly decodeScan :=
  Op.keeps_reading fun c =>
    Op.keeps_bind scanInOnly_chains ((decodeScanAs_keeps c.2 c.1).weaken fun _ _ h => h.scanIn) fun _ =>
      Op.keeps_update fun _ => rfl

theorem decodeScan_raisesOnly : Op.RaisesOnly RowFaults decodeScan :=
  Op.raisesOnly_reading fun c => Op.raisesOnly_bind (decodeScanAs_raisesOnly c.2 c.1) fun _ => Op.raisesOnly_update _

end Sys2Proof.Machine
end

