-- ==== Sys2Proof/Laws/Stream.lean ====
section
/-! SUPPORT. The stream after a sequence of bytes has been read or written: closed forms of the loops over `GetByte` and
`PutByte`. -/

namespace Sys2Proof.Machine

/-- `SPOS` moved on by `n` bytes. -/
def State.moveCursor (n : Nat) (s : State) : State := { s with spos := s.spos + BitVec.ofNat 32 n }

@[simp] theorem State.moveCursor_zero (s : State) : s.moveCursor 0 = s := by
  simp [State.moveCursor]

theorem State.moveCursor_moveCursor (m n : Nat) (s : State) : (s.moveCursor m).moveCursor n = s.moveCursor (m + n) := by
  simp [State.moveCursor, BitVec.add_assoc, BitVec.ofNat_add]

/-- The cursor as a number, while it stays below a 32-bit bound. -/
theorem State.moveCursor_spos {s : State} {n b : Nat} (h : s.spos.toNat + n ≤ b) (hb : b < 2 ^ 32) :
    (s.moveCursor n).spos.toNat = s.spos.toNat + n := by
  simp only [State.moveCursor, BitVec.toNat_add, BitVec.toNat_ofNat]; omega

@[simp] theorem State.moveCursor_readPln (n a : Nat) (s : State) : (s.moveCursor n).readPln a = s.readPln a := rfl
@[simp] theorem State.moveCursor_readStr (n a : Nat) (s : State) : (s.moveCursor n).readStr a = s.readStr a := rfl
@[simp] theorem State.moveCursor_readImg (n a : Nat) (s : State) : (s.moveCursor n).readImg a = s.readImg a := rfl
@[simp] theorem State.moveCursor_slen (n : Nat) (s : State) : (s.moveCursor n).slen = s.slen := rfl
@[simp] theorem State.moveCursor_width (n : Nat) (s : State) : (s.moveCursor n).width = s.width := rfl
@[simp] theorem State.moveCursor_height (n : Nat) (s : State) : (s.moveCursor n).height = s.height := rfl
@[simp] theorem State.moveCursor_ycnt (n : Nat) (s : State) : (s.moveCursor n).ycnt = s.ycnt := rfl

/-- `STR[a .. a + n - 1]` as a list. -/
def State.strSlice (s : State) : Nat → Nat → List Byte
  | _, 0 => []
  | a, n + 1 => s.readStr a :: s.strSlice (a + 1) n

@[simp] theorem State.strSlice_length (s : State) (a n : Nat) : (s.strSlice a n).length = n := by
  induction n generalizing a with
  | zero => rfl
  | succ n ih => simp [State.strSlice, ih]

theorem State.strSlice_getElem? (s : State) (a n i : Nat) :
    (s.strSlice a n)[i]? = if i < n then some (s.readStr (a + i)) else none := by
  induction n generalizing a i with
  | zero => simp [State.strSlice]
  | succ n ih =>
    cases i with
    | zero => simp [State.strSlice]
    | succ i => simp [State.strSlice, ih, Nat.add_comm, Nat.add_left_comm]

/-- A slice depends on `STR` only. -/
theorem State.strSlice_congr {s t : State} (h : ∀ a, t.readStr a = s.readStr a) (a n : Nat) :
    t.strSlice a n = s.strSlice a n := by
  induction n generalizing a with
  | zero => rfl
  | succ n ih => simp only [State.strSlice, h, ih]

@[simp] theorem State.moveCursor_strSlice (k a n : Nat) (s : State) :
    (s.moveCursor k).strSlice a n = s.strSlice a n :=
  State.strSlice_congr (s := s) (t := s.moveCursor k) (fun _ => rfl) a n

/-- A slice is the bytes it holds. -/
theorem State.strSlice_eq {s : State} {a : Nat} {bs : List Byte}
    (h : ∀ (i : Nat) (hi : i < bs.length), s.readStr (a + i) = bs[i]) : s.strSlice a bs.length = bs := by
  apply List.ext_getElem?
  intro i
  rw [State.strSlice_getElem?]
  split
  · rename_i hi; rw [List.getElem?_eq_getElem hi, h i hi]
  · rename_i hi; rw [List.getElem?_eq_none (by omega)]

/-- How many of the next `n` bytes the stream still holds. -/
def State.available (n : Nat) (s : State) : Nat := min n (s.slen.toNat - s.spos.toNat)

theorem State.available_le (n : Nat) (s : State) : s.available n ≤ n := Nat.min_le_left _ _

/-- The next byte, in the terms of the closed forms below. -/
theorem getByte_apply (f : FaultCode) (s : State) :
    getByte f s = if s.spos.toNat < s.slen.toNat then .ok (s.readStr s.spos.toNat) (s.moveCursor 1)
      else .error f s := rfl

/-! ### Writing -/

/-- What `n` bytes written with room do to the state: `STR`, `SPOS` and `SLEN` only, each in closed form. -/
theorem State.pushBytes_only (bs : List Byte) (s : State) : StreamOnly s (s.pushBytes bs) := by
  induction bs generalizing s with
  | nil => rfl
  | cons b bs ih => exact streamOnly_chains.trans s (s.pushByte b) _ rfl (ih (s.pushByte b))

theorem State.pushBytes_append (as bs : List Byte) (s : State) :
    s.pushBytes (as ++ bs) = (s.pushBytes as).pushBytes bs := by
  induction as generalizing s with
  | nil => rfl
  | cons a as ih => exact ih (s.pushByte a)

theorem State.pushBytes_spos (bs : List Byte) (s : State) :
    (s.pushBytes bs).spos = s.spos + BitVec.ofNat 32 bs.length := by
  induction bs generalizing s with
  | nil => simp [State.pushBytes]
  | cons b bs ih =>
    have h : (s.pushByte b).spos = s.spos + 1#32 := rfl
    rw [State.pushBytes, ih, h, List.length_cons, Nat.add_comm, BitVec.ofNat_add, BitVec.add_assoc]

/-- The cursor after bytes written with room, as a number. -/
theorem State.pushBytes_spos_toNat {bs : List Byte} {s : State}
    (h : s.spos.toNat + bs.length ≤ s.cfg.strBytes.toNat) :
    (s.pushBytes bs).spos.toNat = s.spos.toNat + bs.length := by
  have := s.cfg.strBytes.isLt
  rw [State.pushBytes_spos, BitVec.toNat_add, BitVec.toNat_ofNat]
  omega

/-- `SLEN` after bytes written with room: it moves up when passed (R48). -/
theorem State.pushBytes_slen_toNat {bs : List Byte} {s : State}
    (h : s.spos.toNat + bs.length ≤ s.cfg.strBytes.toNat) (hb : bs ≠ []) :
    (s.pushBytes bs).slen.toNat = max s.slen.toNat (s.spos.toNat + bs.length) := by
  induction bs generalizing s with
  | nil => exact absurd rfl hb
  | cons b bs ih =>
    have hc := s.cfg.strBytes.isLt
    simp only [List.length_cons] at h ⊢
    have hs : (s.spos + 1#32).toNat = s.spos.toNat + 1 := spos_succ (n := s.cfg.strBytes.toNat) (by omega) hc
    have hp : (s.pushByte b).spos.toNat = s.spos.toNat + 1 := hs
    have hl : (s.pushByte b).slen.toNat = max s.slen.toNat (s.spos.toNat + 1) := by
      show (if s.slen.toNat < s.spos.toNat + 1 then s.spos + 1#32 else s.slen).toNat = _
      split
      · rw [hs]; omega
      · omega
    cases bs with
    | nil => rw [State.pushBytes, State.pushBytes, hl]; rfl
    | cons c cs =>
      have hcfg : (s.pushByte b).cfg = s.cfg := rfl
      simp only [List.length_cons] at h
      rw [State.pushBytes, ih (by rw [hp, hcfg, List.length_cons]; omega) (by simp), hl, hp, List.length_cons]
      omega

/-- `STR` after bytes written with room. -/
theorem State.readStr_pushBytes {bs : List Byte} {s : State}
    (h : s.spos.toNat + bs.length ≤ s.cfg.strBytes.toNat) (a : Nat) :
    (s.pushBytes bs).readStr a =
      if s.spos.toNat ≤ a then (bs[a - s.spos.toNat]?).getD (s.readStr a) else s.readStr a := by
  induction bs generalizing s with
  | nil => simp [State.pushBytes]
  | cons b bs ih =>
    have hc := s.cfg.strBytes.isLt
    simp only [List.length_cons] at h
    have hs : (s.pushByte b).spos.toNat = s.spos.toNat + 1 := spos_succ (n := s.cfg.strBytes.toNat) (by omega) hc
    have hcfg : (s.pushByte b).cfg = s.cfg := rfl
    rw [State.pushBytes, ih (by rw [hs, hcfg]; omega), hs, State.readStr_pushByte]
    by_cases h1 : s.spos.toNat + 1 ≤ a
    · have e : a - s.spos.toNat = (a - (s.spos.toNat + 1)) + 1 := by omega
      rw [if_pos h1, if_neg (show ¬ a = s.spos.toNat by omega), if_pos (show s.spos.toNat ≤ a by omega), e,
        List.getElem?_cons_succ]
    · by_cases h2 : a = s.spos.toNat
      · subst h2; simp
      · rw [if_neg h1, if_neg h2, if_neg (show ¬ s.spos.toNat ≤ a by omega)]

/-- What `PutByte` of each byte in order comes to, when the cursor is inside the stream. -/
theorem putBytes_room {bs : List Byte} {s : State} (h : s.spos.toNat + bs.length ≤ s.cfg.strBytes.toNat) :
    putBytes bs s = .ok () (s.pushBytes bs) := by
  rw [putBytes_apply bs s (.inl (by omega)), if_pos h]

theorem putBytes_full {bs : List Byte} {s : State} (h0 : s.spos.toNat ≤ s.cfg.strBytes.toNat)
    (h : ¬ s.spos.toNat + bs.length ≤ s.cfg.strBytes.toNat) :
    putBytes bs s = .error .ioError (s.pushBytes (bs.take (s.cfg.strBytes.toNat - s.spos.toNat))) := by
  rw [putBytes_apply bs s (.inl h0), if_neg h]

end Sys2Proof.Machine
end

