-- ==== Sys2Proof/Laws/Decoder.lean ====
section
/-! SUPPORT. The row decoder in closed form: what a repeat run, a dump run and a flat pixel do to the state, on any stream. -/

namespace Sys2Proof.Machine

/-! ### Bytes into a plane row -/

/-- Bytes at consecutive cells of `PLN`. -/
def State.storePln : Nat → List Byte → State → State
  | _, [], s => s
  | a, v :: vs, s => State.storePln (a + 1) vs (s.writePln a v)

/-- Bytes at place `i` of a destination row; nothing for the spec's `NONE` (R136, R140). -/
def State.fillRow (dst : Option Nat) (i : Nat) (vs : List Byte) (s : State) : State :=
  match dst with
  | none => s
  | some a => s.storePln (a + i) vs

theorem State.storePln_only (a : Nat) (vs : List Byte) (s : State) : PlanesOnly s (s.storePln a vs) := by
  induction vs generalizing a s with
  | nil => rfl
  | cons v vs ih => exact planesOnly_chains.trans s (s.writePln a v) _ rfl (ih (a + 1) (s.writePln a v))

theorem State.fillRow_only (dst : Option Nat) (i : Nat) (vs : List Byte) (s : State) :
    PlanesOnly s (s.fillRow dst i vs) := by
  cases dst with
  | none => rfl
  | some a => exact s.storePln_only (a + i) vs

/-- `PLN` after bytes at consecutive cells. -/
theorem State.readPln_storePln (a : Nat) (vs : List Byte) (s : State) (x : Nat) :
    (s.storePln a vs).readPln x = if a ≤ x then (vs[x - a]?).getD (s.readPln x) else s.readPln x := by
  induction vs generalizing a s with
  | nil => simp [State.storePln]
  | cons v vs ih =>
    rw [State.storePln, ih, State.readPln_writePln]
    by_cases h1 : a + 1 ≤ x
    · have e : x - a = (x - (a + 1)) + 1 := by omega
      rw [if_pos h1, if_neg (show ¬ x = a by omega), if_pos (show a ≤ x by omega), e, List.getElem?_cons_succ]
    · by_cases h2 : x = a
      · subst h2; simp
      · rw [if_neg h1, if_neg h2, if_neg (show ¬ a ≤ x by omega)]

/-- `PLN` after bytes at place `i` of a row. -/
theorem State.readPln_fillRow (dst : Option Nat) (i : Nat) (vs : List Byte) (s : State) (x : Nat) :
    (s.fillRow dst i vs).readPln x =
      match dst with
      | none => s.readPln x
      | some a => if a + i ≤ x then (vs[x - (a + i)]?).getD (s.readPln x) else s.readPln x := by
  cases dst with
  | none => rfl
  | some a => exact s.readPln_storePln (a + i) vs x

theorem State.storePln_append (a : Nat) (us vs : List Byte) (s : State) :
    s.storePln a (us ++ vs) = (s.storePln a us).storePln (a + us.length) vs := by
  induction us generalizing a s with
  | nil => rfl
  | cons u us ih =>
    rw [List.cons_append, State.storePln, ih, State.storePln, List.length_cons, Nat.add_assoc, Nat.add_comm 1]

theorem State.fillRow_append (dst : Option Nat) (i : Nat) (us vs : List Byte) (s : State) :
    s.fillRow dst i (us ++ vs) = (s.fillRow dst i us).fillRow dst (i + us.length) vs := by
  cases dst with
  | none => rfl
  | some a => simp only [State.fillRow, State.storePln_append, Nat.add_assoc]

theorem State.storePln_moveCursor (a : Nat) (vs : List Byte) (n : Nat) (s : State) :
    (s.moveCursor n).storePln a vs = (s.storePln a vs).moveCursor n := by
  induction vs generalizing a s with
  | nil => rfl
  | cons v vs ih => exact ih (a + 1) (s.writePln a v)

theorem State.fillRow_moveCursor (dst : Option Nat) (i : Nat) (vs : List Byte) (n : Nat) (s : State) :
    (s.moveCursor n).fillRow dst i vs = (s.fillRow dst i vs).moveCursor n := by
  cases dst with
  | none => rfl
  | some a => exact s.storePln_moveCursor (a + i) vs n

theorem State.fillRow_nil (dst : Option Nat) (i : Nat) (s : State) : s.fillRow dst i [] = s := by
  cases dst <;> rfl

@[simp] theorem State.fillRow_spos (dst : Option Nat) (i : Nat) (vs : List Byte) (s : State) :
    (s.fillRow dst i vs).spos = s.spos := by rw [s.fillRow_only dst i vs]

@[simp] theorem State.fillRow_slen (dst : Option Nat) (i : Nat) (vs : List Byte) (s : State) :
    (s.fillRow dst i vs).slen = s.slen := by rw [s.fillRow_only dst i vs]

@[simp] theorem State.fillRow_width (dst : Option Nat) (i : Nat) (vs : List Byte) (s : State) :
    (s.fillRow dst i vs).width = s.width := by rw [s.fillRow_only dst i vs]

@[simp] theorem State.fillRow_readStr (dst : Option Nat) (i : Nat) (vs : List Byte) (s : State) (a : Nat) :
    (s.fillRow dst i vs).readStr a = s.readStr a := by rw [s.fillRow_only dst i vs]; rfl

theorem storeAt_apply (dst : Option Nat) (i : Nat) (v : Byte) (s : State) :
    storeAt dst i v s = .ok () (s.fillRow dst i [v]) := by cases dst <;> rfl

/-! ### Runs -/

/-- The copies of a repeat run (R136). -/
theorem copies_apply (dst : Option Nat) (done : Nat) (v : Byte) (n i : Nat) (s : State) :
    forUp (fun t => storeAt dst (done + t) v) n i s = .ok () (s.fillRow dst (done + i) (List.replicate n v)) := by
  induction n generalizing i s with
  | zero => rw [forUp_zero, List.replicate_zero, State.fillRow_nil]
  | succ n ih =>
    have h := s.fillRow_append dst (done + i) [v] (List.replicate n v)
    rw [forUp_succ, bind_ok (storeAt_apply dst (done + i) v s), ih]
    exact congrArg (EStateM.Result.ok ()) h.symm

/-- The literals of a dump run (R136): those the stream still holds, then TruncatedData if it holds too few. -/
theorem literals_apply (dst : Option Nat) (done n i : Nat) (s : State) :
    forUp (fun t => do
        let v ← getByte .truncatedData
        storeAt dst (done + t) v) n i s =
      if n ≤ s.slen.toNat - s.spos.toNat then
        .ok () ((s.fillRow dst (done + i) (s.strSlice s.spos.toNat n)).moveCursor n)
      else .error .truncatedData
        ((s.fillRow dst (done + i) (s.strSlice s.spos.toNat (s.slen.toNat - s.spos.toNat))).moveCursor
          (s.slen.toNat - s.spos.toNat)) := by
  induction n generalizing i s with
  | zero => rw [if_pos (Nat.zero_le _), State.strSlice, State.fillRow_nil, State.moveCursor_zero, forUp_zero]
  | succ n ih =>
    have hl := s.slen.isLt
    rw [forUp_succ]
    by_cases h : s.spos.toNat < s.slen.toNat
    · obtain ⟨u, hu⟩ : ∃ u, u = (s.moveCursor 1).fillRow dst (done + i) [s.readStr s.spos.toNat] := ⟨_, rfl⟩
      have hb : (do
          let v ← getByte .truncatedData
          storeAt dst (done + i) v) s = .ok () u := by
        rw [bind_ok (getByte_ok h), hu]; exact storeAt_apply _ _ _ _
      have hp : u.spos.toNat = s.spos.toNat + 1 := by
        rw [hu, State.fillRow_spos]; exact State.moveCursor_spos (b := s.slen.toNat) (by omega) hl
      have hs : u.slen = s.slen := by rw [hu, State.fillRow_slen]; rfl
      have hr : ∀ a, u.readStr a = s.readStr a := fun a => by rw [hu, State.fillRow_readStr]; rfl
      have key : ∀ m, (u.fillRow dst (done + (i + 1)) (u.strSlice u.spos.toNat m)).moveCursor m =
          (s.fillRow dst (done + i) (s.strSlice s.spos.toNat (m + 1))).moveCursor (m + 1) := by
        intro m
        have e : s.strSlice s.spos.toNat (m + 1) = [s.readStr s.spos.toNat] ++ s.strSlice (s.spos.toNat + 1) m := rfl
        rw [State.strSlice_congr hr, hp, e, State.fillRow_append, hu, State.fillRow_moveCursor, State.fillRow_moveCursor,
          State.moveCursor_moveCursor, Nat.add_comm 1 m]
        rfl
      rw [bind_ok hb, ih, hs, key, hp]
      by_cases h2 : n + 1 ≤ s.slen.toNat - s.spos.toNat
      · rw [if_pos (by omega), if_pos h2]
      · have e : s.slen.toNat - s.spos.toNat = (s.slen.toNat - (s.spos.toNat + 1)) + 1 := by omega
        have k2 := key (s.slen.toNat - (s.spos.toNat + 1))
        rw [hp] at k2
        rw [if_neg (by omega), if_neg h2, k2, e]
    · have e : s.slen.toNat - s.spos.toNat = 0 := by omega
      rw [bind_error (bind_error (getByte_error h)), e, if_neg (by omega), State.strSlice, State.fillRow_nil,
        State.moveCursor_zero]

theorem checkRun_apply (done n : Nat) (s : State) :
    checkRun done n s = if n ≤ s.width.toNat - done then .ok () s else .error .formatFault s := by
  show (if decide (s.width.toNat - done < n) = true then _ else _) = _
  by_cases h : n ≤ s.width.toNat - done
  · rw [if_pos h, if_neg (by rw [decide_eq_true_eq]; omega)]
  · rw [if_neg h, if_pos (by rw [decide_eq_true_eq]; omega)]

/-- A repeat run, everything it can do (R136). -/
theorem repeatRun_apply (n : Nat) (dst : Option Nat) (done : Nat) (s : State) :
    repeatRun n dst done s =
      if n ≤ s.width.toNat - done then
        if s.spos.toNat < s.slen.toNat then
          .ok () ((s.fillRow dst done (List.replicate n (s.readStr s.spos.toNat))).moveCursor 1)
        else .error .truncatedData s
      else .error .formatFault s := by
  unfold repeatRun
  rw [bind_check (checkRun_apply done n s)]
  by_cases h : s.spos.toNat < s.slen.toNat
  · rw [bind_ok (getByte_ok h), if_pos h, copies_apply]
    exact congrArg (fun r => if n ≤ s.width.toNat - done then EStateM.Result.ok () r else _)
      (State.fillRow_moveCursor dst done (List.replicate n (s.readStr s.spos.toNat)) 1 s)
  · rw [bind_error (getByte_error h), if_neg h]

/-- A dump run, everything it can do (R136). -/
theorem literalRun_apply (n : Nat) (dst : Option Nat) (done : Nat) (s : State) :
    literalRun n dst done s =
      if n ≤ s.width.toNat - done then
        if n ≤ s.slen.toNat - s.spos.toNat then
          .ok () ((s.fillRow dst done (s.strSlice s.spos.toNat n)).moveCursor n)
        else .error .truncatedData
          ((s.fillRow dst done (s.strSlice s.spos.toNat (s.slen.toNat - s.spos.toNat))).moveCursor
            (s.slen.toNat - s.spos.toNat))
      else .error .formatFault s := by
  unfold literalRun
  rw [bind_check (checkRun_apply done n s), literals_apply]
  rfl

/-! ### A flat pixel -/

/-- The bytes of one flat pixel (R141): those the stream still holds, then TruncatedData if it holds too few. -/
theorem flatPixel_apply (x : Nat) (ds : List (Option Nat)) (s : State) :
    flatPixel x ds s =
      if ds.length ≤ s.slen.toNat - s.spos.toNat then
        .ok () ((s.storeFlat x ds (s.strSlice s.spos.toNat ds.length)).moveCursor ds.length)
      else .error .truncatedData
        ((s.storeFlat x ds (s.strSlice s.spos.toNat (s.slen.toNat - s.spos.toNat))).moveCursor
          (s.slen.toNat - s.spos.toNat)) := by
  induction ds generalizing s with
  | nil => simp [flatPixel, State.storeFlat]
  | cons d ds ih =>
    have hl := s.slen.isLt
    have hmove : ∀ (es : List (Option Nat)) (vs : List Byte) (n : Nat) (t : State),
        (t.moveCursor n).storeFlat x es vs = (t.storeFlat x es vs).moveCursor n := by
      intro es
      induction es with
      | nil => intro vs n t; cases vs <;> rfl
      | cons e es ihe =>
        intro vs n t
        cases vs with
        | nil => cases e <;> rfl
        | cons v vs =>
          cases e with
          | none => exact ihe vs n t
          | some a => exact ihe vs n (t.writePln (a + x) v)
    by_cases h : s.spos.toNat < s.slen.toNat
    · obtain ⟨u, hu⟩ : ∃ u, u = (s.moveCursor 1).fillRow d x [s.readStr s.spos.toNat] := ⟨_, rfl⟩
      have hp : u.spos.toNat = s.spos.toNat + 1 := by
        rw [hu, State.fillRow_spos]; exact State.moveCursor_spos (b := s.slen.toNat) (by omega) hl
      have hs : u.slen = s.slen := by rw [hu, State.fillRow_slen]; rfl
      have hr : ∀ a, u.readStr a = s.readStr a := fun a => by rw [hu, State.fillRow_readStr]; rfl
      have key : ∀ m, (u.storeFlat x ds (u.strSlice u.spos.toNat m)).moveCursor m =
          (s.storeFlat x (d :: ds) (s.strSlice s.spos.toNat (m + 1))).moveCursor (m + 1) := by
        intro m
        rw [State.strSlice_congr hr, hp, hu, State.fillRow_moveCursor, hmove, State.moveCursor_moveCursor,
          Nat.add_comm 1 m]
        cases d <;> rfl
      have k2 := key (s.slen.toNat - (s.spos.toNat + 1))
      rw [flatPixel, bind_ok (getByte_ok h), bind_ok (storeAt_apply d x _ _)]
      rw [show ({ s with spos := s.spos + 1#32 } : State).fillRow d x [s.readStr s.spos.toNat] = u from hu.symm]
      rw [ih, hs, key, hp, List.length_cons]
      rw [hp] at k2
      by_cases h2 : ds.length + 1 ≤ s.slen.toNat - s.spos.toNat
      · rw [if_pos (by omega), if_pos h2]
      · have e : s.slen.toNat - s.spos.toNat = (s.slen.toNat - (s.spos.toNat + 1)) + 1 := by omega
        rw [if_neg (by omega), if_neg h2, k2, e]
    · have e : s.slen.toNat - s.spos.toNat = 0 := by omega
      rw [flatPixel, bind_error (getByte_error h), e, if_neg (by rw [List.length_cons]; omega), State.moveCursor_zero,
        State.strSlice]
      cases d <;> rfl

end Sys2Proof.Machine
end

