-- ==== Sys2Proof/Laws/Encoder.lean ====
section
/-! SUPPORT. The two run lengths the encoder measures (R121): how long they can be and what the bytes they cover are. -/

namespace Sys2Proof.Machine

theorem equalRun_le_cap (v : Byte) (cap : Nat) (bs : List Byte) : equalRun v cap bs ≤ cap := by
  induction cap generalizing bs with
  | zero => simp [equalRun]
  | succ cap ih =>
    cases bs with
    | nil => simp [equalRun]
    | cons b bs =>
      have := ih bs
      rw [equalRun]; split <;> omega

theorem equalRun_le_length (v : Byte) (cap : Nat) (bs : List Byte) : equalRun v cap bs ≤ bs.length := by
  induction cap generalizing bs with
  | zero => simp [equalRun]
  | succ cap ih =>
    cases bs with
    | nil => simp [equalRun]
    | cons b bs =>
      have := ih bs
      rw [equalRun, List.length_cons]; split <;> omega

/-- The bytes of an equal run are copies of the one value. -/
theorem equalRun_take (v : Byte) (cap : Nat) (bs : List Byte) :
    bs.take (equalRun v cap bs) = List.replicate (equalRun v cap bs) v := by
  induction cap generalizing bs with
  | zero => simp [equalRun]
  | succ cap ih =>
    cases bs with
    | nil => simp [equalRun]
    | cons b bs =>
      rw [equalRun]
      split
      · rename_i h; rw [List.take_succ_cons, List.replicate_succ, ih, h]
      · rfl

/-- An equal run below its cap ends where the value changes. -/
theorem equalRun_next (v : Byte) (cap : Nat) (bs : List Byte) (h : equalRun v cap bs < cap) :
    (bs.drop (equalRun v cap bs)).head? ≠ some v := by
  induction cap generalizing bs with
  | zero => omega
  | succ cap ih =>
    cases bs with
    | nil => simp
    | cons b bs =>
      rw [equalRun] at h ⊢
      split at h
      · rename_i hb
        rw [if_pos hb, List.drop_succ_cons]
        exact ih bs (by omega)
      · rename_i hb
        rw [if_neg hb, List.drop_zero, List.head?_cons]
        exact fun e => hb (Option.some.inj e)

theorem dumpRun_le_cap (cap : Nat) (bs : List Byte) : dumpRun cap bs ≤ cap := by
  induction cap generalizing bs with
  | zero => simp [dumpRun]
  | succ cap ih =>
    match bs with
    | [] => simp [dumpRun]
    | [_] => simp [dumpRun]
    | b :: c :: bs =>
      have := ih (c :: bs)
      rw [dumpRun]; split <;> omega

theorem dumpRun_le_length (cap : Nat) (bs : List Byte) : dumpRun cap bs ≤ bs.length := by
  induction cap generalizing bs with
  | zero => simp [dumpRun]
  | succ cap ih =>
    match bs with
    | [] => simp [dumpRun]
    | [_] => simp [dumpRun]
    | b :: c :: bs =>
      have := ih (c :: bs)
      rw [dumpRun, List.length_cons]
      split <;> omega

/-- A dump takes at least one byte when the first differs from the second, or stands alone. -/
theorem dumpRun_pos (cap : Nat) (b : Byte) (bs : List Byte) (h : bs.head? ≠ some b) : 1 ≤ dumpRun (cap + 1) (b :: bs) := by
  match bs with
  | [] => simp [dumpRun]
  | c :: bs =>
    rw [dumpRun, if_neg fun e => h (by rw [e]; rfl)]
    omega

end Sys2Proof.Machine
end

