-- ==== Sys2Proof/Laws/Header.lean ====
section
/-! SUPPORT. `ReadLine` in closed form (R104): a line that ends, and a stream that ends first. -/

namespace Sys2Proof.Machine

/-- `ReadLine` over a line that ends in the stream: the line without its 0x0A, the cursor past it. -/
theorem readLineFrom_line (l : List Byte) (fuel : Nat) (acc : List Byte) (s : State) (hl : lineEnd ∉ l)
    (hs : s.strSlice s.spos.toNat (l.length + 1) = l ++ [lineEnd]) (hf : l.length < fuel)
    (hr : s.spos.toNat + (l.length + 1) ≤ s.slen.toNat) :
    readLineFrom fuel acc s = .ok (acc ++ l) (s.moveCursor (l.length + 1)) := by
  induction l generalizing fuel acc s with
  | nil =>
    obtain ⟨n, rfl⟩ : ∃ n, fuel = n + 1 := ⟨fuel - 1, by simp only [List.length_nil] at hf; omega⟩
    simp only [List.length_nil, State.strSlice, List.nil_append, List.cons.injEq, and_true] at hs
    simp only [List.length_nil] at hr
    rw [readLineFrom, bind_ok (getByte_ok (by omega)), if_pos hs, List.append_nil]
    rfl
  | cons b l ih =>
    have hb := s.slen.isLt
    obtain ⟨n, rfl⟩ : ∃ n, fuel = n + 1 := ⟨fuel - 1, by simp only [List.length_cons] at hf; omega⟩
    simp only [List.length_cons] at hf hr
    rw [List.length_cons, State.strSlice, List.cons_append, List.cons.injEq] at hs
    simp only [List.mem_cons, not_or] at hl
    have hm : (s.moveCursor 1).spos.toNat = s.spos.toNat + 1 := State.moveCursor_spos (b := s.slen.toNat) (by omega) hb
    have hk := ih n (acc ++ [b]) (s.moveCursor 1) hl.2
      (by rw [State.moveCursor_strSlice, hm]; exact hs.2) (by omega)
      (by rw [hm]; show _ ≤ s.slen.toNat; omega)
    rw [readLineFrom, bind_ok (getByte_ok (by omega)), hs.1, if_neg fun e => hl.1 e.symm]
    refine hk.trans ?_
    rw [State.moveCursor_moveCursor, List.append_assoc, List.length_cons, Nat.add_comm 1]
    rfl

/-- `ReadLine` over a stream that ends before any 0x0A: MalformedHeader at the end of the stream. -/
theorem readLineFrom_end (l : List Byte) (acc : List Byte) (s : State) (hl : lineEnd ∉ l)
    (hs : s.strSlice s.spos.toNat l.length = l) (hr : s.spos.toNat + l.length = s.slen.toNat) :
    readLineFrom l.length acc s = .error .malformedHeader (s.moveCursor l.length) := by
  induction l generalizing acc s with
  | nil => rw [List.length_nil, readLineFrom, State.moveCursor_zero]; rfl
  | cons b l ih =>
    have hb := s.slen.isLt
    simp only [List.length_cons] at hr
    rw [List.length_cons, State.strSlice, List.cons.injEq] at hs
    simp only [List.mem_cons, not_or] at hl
    have hm : (s.moveCursor 1).spos.toNat = s.spos.toNat + 1 := State.moveCursor_spos (b := s.slen.toNat) (by omega) hb
    have hk := ih (acc ++ [b]) (s.moveCursor 1) hl.2
      (by rw [State.moveCursor_strSlice, hm]; exact hs.2)
      (by rw [hm]; show _ = s.slen.toNat; omega)
    rw [List.length_cons, readLineFrom, bind_ok (getByte_ok (by omega)), hs.1, if_neg fun e => hl.1 e.symm]
    refine hk.trans ?_
    rw [State.moveCursor_moveCursor, Nat.add_comm 1]

theorem readLine_line {l : List Byte} {s : State} (hl : lineEnd ∉ l)
    (hs : s.strSlice s.spos.toNat (l.length + 1) = l ++ [lineEnd])
    (hr : s.spos.toNat + (l.length + 1) ≤ s.slen.toNat) :
    readLine s = .ok l (s.moveCursor (l.length + 1)) :=
  readLineFrom_line l (s.slen.toNat - s.spos.toNat) [] s hl hs (by omega) hr

theorem readLine_end {l : List Byte} {s : State} (hl : lineEnd ∉ l) (hs : s.strSlice s.spos.toNat l.length = l)
    (hr : s.spos.toNat + l.length = s.slen.toNat) :
    readLine s = .error .malformedHeader (s.moveCursor l.length) := by
  show readLineFrom (s.slen.toNat - s.spos.toNat) [] s = _
  rw [← hr, Nat.add_sub_cancel_left]
  exact readLineFrom_end l [] s hl hs hr

/-- What follows a tag (R105). -/
theorem afterTag_append (tag bs : List Byte) : afterTag tag (tag ++ bs) = some bs := by
  induction tag with
  | nil => rfl
  | cons t ts ih => rw [List.cons_append, afterTag, if_pos rfl, ih]

theorem afterTag_some {tag bs rest : List Byte} (h : afterTag tag bs = some rest) : bs = tag ++ rest := by
  induction tag generalizing bs with
  | nil => simp only [afterTag, Option.some.injEq] at h; exact h
  | cons t ts ih =>
    cases bs with
    | nil => nomatch h
    | cons b bs =>
      rw [afterTag] at h
      split at h
      · rename_i e; rw [e, ih h]; rfl
      · nomatch h

/-- The leading digits of a byte sequence, and what follows them (R105). -/
theorem takeDigits_spec (bs : List Byte) (v n : Nat) :
    ∃ ds rest, bs = ds ++ rest ∧ (∀ d ∈ ds, isDigit d = true) ∧ (∀ d ∈ rest.head?, isDigit d = false) ∧
      takeDigits bs v n = (ds.foldl (fun v d => v * 10 + (d.toNat - 0x30)) v, n + ds.length, rest) := by
  induction bs generalizing v n with
  | nil => exact ⟨[], [], rfl, nofun, nofun, rfl⟩
  | cons b bs ih =>
    rw [takeDigits]
    by_cases hb : isDigit b = true
    · obtain ⟨ds, rest, h1, h2, h3, h4⟩ := ih (v * 10 + (b.toNat - 0x30)) (n + 1)
      refine ⟨b :: ds, rest, by rw [h1]; rfl, ?_, h3, ?_⟩
      · intro d hd
        rcases List.mem_cons.mp hd with rfl | hd
        · exact hb
        · exact h2 d hd
      · rw [if_pos hb, h4, List.foldl_cons, List.length_cons, Nat.add_right_comm, Nat.add_assoc]
    · refine ⟨[], b :: bs, rfl, nofun, ?_, by rw [if_neg hb]; rfl⟩
      intro d hd
      simp only [List.head?_cons, Option.mem_def, Option.some.injEq] at hd
      subst hd
      exact Bool.eq_false_iff.mpr hb

end Sys2Proof.Machine
end

