-- ==== Sys2Proof/Laws/PerInstr.lean ====
section
/-! SUPPORT. A law of every instruction, as syntax: the form of its encoding. -/

namespace Sys2Proof.Laws.EncodeForm

/-- A format Z word carries its opcode and nothing else (R60). -/
theorem wordZ_middle (op : Byte) : (wordZ op).extractLsb' 2 22 = 0#22 := by
  apply BitVec.eq_of_toNat_eq
  have h : (wordZ op).toNat = op.toNat * 2 ^ 24 + 0 := append_toNat op 0#24
  rw [extract_toNat, h, BitVec.toNat_ofNat]
  omega

/-- A format K word carries its opcode, its plane index and nothing else (R60). -/
theorem wordK_middle (op : Byte) (k : BitVec 2) : (wordK op k).extractLsb' 2 22 = 0#22 := by
  apply BitVec.eq_of_toNat_eq
  have h : (wordK op k).toNat = (op.toNat * 2 ^ 22 + 0) * 2 ^ 2 + k.toNat :=
    (append_toNat (op ++ 0#22) k).trans (by rw [append_toNat op 0#22]; rfl)
  have hk := k.isLt
  rw [extract_toNat, h, BitVec.toNat_ofNat]
  omega

/-- A command's word carries nothing between its opcode and its plane index (R60: bits 23:2 are 0); a control byte of 0 is
RLE_ZERO and nothing else (R66, R72 (a)); a marker begins with 2, 2 (R67). -/
def Statement (i : Instr) : Prop :=
  i.wellFormed = true →
    match encode i with
    | .command w => w.extractLsb' 2 22 = 0#22
    | .control c => c = 0#8 ↔ i = .rleZero
    | .head w => w.extractLsb' 16 16 = 0x0202#16
    | .pixel _ => True

theorem nop : Statement .nop := fun _ => wordZ_middle _
theorem f2rgbe : Statement .f2rgbe := fun _ => wordZ_middle _
theorem rgbe2f : Statement .rgbe2f := fun _ => wordZ_middle _
theorem f2re : Statement .f2re := fun _ => wordZ_middle _
theorem re2f : Statement .re2f := fun _ => wordZ_middle _
theorem plnClr : Statement .plnClr := fun _ => wordZ_middle _
theorem insRgbe : Statement .insRgbe := fun _ => wordZ_middle _
theorem insRe : Statement .insRe := fun _ => wordZ_middle _
theorem img2pln : Statement .img2pln := fun _ => wordZ_middle _
theorem pln2img : Statement .pln2img := fun _ => wordZ_middle _
theorem hdrWr : Statement .hdrWr := fun _ => wordZ_middle _
theorem hdrRd : Statement .hdrRd := fun _ => wordZ_middle _
theorem rleEnc (k : BitVec 2) : Statement (.rleEnc k) := fun _ => wordK_middle _ k
theorem encScan : Statement .encScan := fun _ => wordZ_middle _
theorem encImage : Statement .encImage := fun _ => wordZ_middle _
theorem rleDec (k : BitVec 2) : Statement (.rleDec k) := fun _ => wordK_middle _ k
theorem decScan : Statement .decScan := fun _ => wordZ_middle _
theorem decImage : Statement .decImage := fun _ => wordZ_middle _
theorem srst : Statement .srst := fun _ => wordZ_middle _
theorem rleZero : Statement .rleZero := fun _ => ⟨fun _ => rfl, fun _ => rfl⟩
theorem rleDump (n : BitVec 7) : Statement (.rleDump n) :=
  (by decide : ∀ n : BitVec 7, (n != 0#7) = true → ((0#1 ++ n : Byte) = 0#8 ↔ Instr.rleDump n = .rleZero)) n
theorem rleDump128 : Statement .rleDump128 := fun _ => (by decide : 128#8 = 0#8 ↔ Instr.rleDump128 = .rleZero)
theorem rleRepeat1 : Statement .rleRepeat1 := fun _ => (by decide : 129#8 = 0#8 ↔ Instr.rleRepeat1 = .rleZero)
theorem rleRepeat (n : BitVec 7) : Statement (.rleRepeat n) := fun _ =>
  (by decide : ∀ n : BitVec 7, ((1#1 ++ n : Byte) = 0#8 ↔ Instr.rleRepeat n = .rleZero)) n
theorem scanMarker (h l : Byte) : Statement (.scanMarker h l) := by
  intro _
  show (2#8 ++ 2#8 ++ h ++ l : Word).extractLsb' 16 16 = 0x0202#16
  have h1 := h.isLt
  have h2 := l.isLt
  have e : (2#8 ++ 2#8 ++ h ++ l : Word).toNat = (2 * 2 ^ 8 + 2) * 2 ^ 16 + h.toNat * 2 ^ 8 + l.toNat := by
    refine (append_toNat (2#8 ++ 2#8 ++ h) l).trans ?_
    rw [append_toNat (2#8 ++ 2#8) h, append_toNat 2#8 2#8]
    simp only [BitVec.toNat_ofNat]
    ring
  apply BitVec.eq_of_toNat_eq
  rw [extract_toNat, e, BitVec.toNat_ofNat]
  omega
theorem rgbeQuad (r g b e : Byte) : Statement (.rgbeQuad r g b e) := fun _ => trivial

end Sys2Proof.Laws.EncodeForm
end

