-- ==== Sys2Proof/Laws/Planes.lean ====
section
/-! SUPPORT. The plane buffer loops, cell by cell: what one pixel writes, and what the loop leaves of a cell that one pixel or
none writes. -/

namespace Sys2Proof.Machine

/-- `PLN` after a quad is stored in the four-plane layout (R22, R112). -/
theorem State.readPln_storeQuad (p : Nat) (q : Quad) (s : State) (a : Nat) :
    (s.storeQuad p q).readPln a =
      if a = 3 * s.pixels + p then q.e
      else if a = 2 * s.pixels + p then q.b
      else if a = s.pixels + p then q.g
      else if a = p then q.r
      else s.readPln a := by
  simp only [State.storeQuad, State.readPln_writePln]

/-- `PLN` after a pair is stored in the two-plane layout (R22, R113). -/
theorem State.readPln_storePair (p : Nat) (q : Quad) (s : State) (a : Nat) :
    (s.storePair p q).readPln a =
      if a = s.pixels + p then q.e else if a = p then q.r else s.readPln a := by
  simp only [State.storePair, State.readPln_writePln]

/-- The cells of `PLN` that pixel `p` owns in the current mode (R22). -/
def State.planeCells (p : Nat) (s : State) : List Nat :=
  if s.rgb then [p, s.pixels + p, 2 * s.pixels + p, 3 * s.pixels + p] else [p, s.pixels + p]

/-- The cells of `IMG` that pixel `p` owns in the current mode (R21). -/
def State.imageCells (p : Nat) (s : State) : List Nat :=
  if s.rgb then [3 * p, 3 * p + 1, 3 * p + 2] else [p]

/-- A cell of no pixel's is left as it was by a pixel of IMG2PLN. -/
theorem State.readPln_quantizePixel_other {p a : Nat} {s : State} (h : a ∉ s.planeCells p) :
    (s.quantizePixel p).readPln a = s.readPln a := by
  unfold State.planeCells at h
  unfold State.quantizePixel
  cases hm : s.rgb <;> simp only [hm, if_true, if_false, Bool.false_eq_true, List.mem_cons, List.not_mem_nil, or_false,
    not_or] at h ⊢
  · rw [State.readPln_storePair, if_neg h.2, if_neg h.1]
  · rw [State.readPln_storeQuad, if_neg h.2.2.2, if_neg h.2.2.1, if_neg h.2.1, if_neg h.1]

/-- A cell of no pixel's is left as it was by a pixel of PLN2IMG. -/
theorem State.readImg_unpackPixel_other {p a : Nat} {s : State} (h : a ∉ s.imageCells p) :
    (s.unpackPixel p).readImg a = s.readImg a := by
  unfold State.imageCells at h
  unfold State.unpackPixel
  cases hm : s.rgb <;> simp only [hm, if_true, if_false, Bool.false_eq_true, List.mem_cons, List.not_mem_nil, or_false,
    not_or] at h ⊢
  · rw [State.readImg_writeImg, if_neg h]
  · rw [State.readImg_writeImg, if_neg h.2.2, State.readImg_writeImg, if_neg h.2.1, State.readImg_writeImg, if_neg h.1]

/-- Two different pixels own no common cell of `PLN`. -/
theorem State.planeCells_disjoint {p r a : Nat} {s : State} (hp : p < s.pixels) (hr : r < s.pixels) (hne : p ≠ r)
    (h : a ∈ s.planeCells p) : a ∉ s.planeCells r := by
  unfold State.planeCells at h ⊢
  cases hm : s.rgb <;> simp only [hm, if_true, if_false, Bool.false_eq_true, List.mem_cons, List.not_mem_nil, or_false] at h ⊢ <;>
    omega

/-- Two different pixels own no common cell of `IMG`. -/
theorem State.imageCells_disjoint {p r a : Nat} {s : State} (hne : p ≠ r) (h : a ∈ s.imageCells p) :
    a ∉ s.imageCells r := by
  unfold State.imageCells at h ⊢
  cases hm : s.rgb <;> simp only [hm, if_true, if_false, Bool.false_eq_true, List.mem_cons, List.not_mem_nil, or_false] at h ⊢ <;>
    omega

/-- Every cell of a pixel's is inside the `P` planes (R22). -/
theorem State.planeCells_lt {p a : Nat} {s : State} (hp : p < s.pixels) (h : a ∈ s.planeCells p) :
    a < s.planes * s.pixels := by
  unfold State.planeCells at h
  unfold State.planes
  cases hm : s.rgb <;> simp only [hm, if_true, if_false, Bool.false_eq_true, List.mem_cons, List.not_mem_nil, or_false] at h ⊢ <;>
    omega

/-- Every cell of a pixel's is inside the image (R21). -/
theorem State.imageCells_lt {p a : Nat} {s : State} (hp : p < s.pixels) (h : a ∈ s.imageCells p) :
    a < s.pixels * s.channels := by
  unfold State.imageCells at h
  unfold State.channels
  cases hm : s.rgb <;> simp only [hm, if_true, if_false, Bool.false_eq_true, List.mem_cons, List.not_mem_nil, or_false] at h ⊢ <;>
    omega

/-- The last turn of a loop of plain writes. -/
theorem State.iterate_succ (g : Nat → State → State) (n i : Nat) (s : State) :
    State.iterate g (n + 1) i s = g (i + n) (State.iterate g n i s) := by
  induction n generalizing i s with
  | zero => rfl
  | succ n ih =>
    rw [State.iterate, ih, Nat.add_right_comm, Nat.add_assoc i n 1]; rfl

/-- The loop of IMG2PLN leaves every cell outside the planes as it was. -/
theorem State.readPln_quantizeImage_other {n a : Nat} {s : State} (hn : n ≤ s.pixels) (h : s.planes * s.pixels ≤ a) :
    (State.iterate State.quantizePixel n 0 s).readPln a = s.readPln a := by
  induction n with
  | zero => rfl
  | succ n ih =>
    have k := quantizeImage_only n 0 s
    rw [State.iterate_succ, State.readPln_quantizePixel_other, ih (by omega)]
    intro hc
    have e : (State.iterate State.quantizePixel n 0 s).planeCells (0 + n) = s.planeCells n := by rw [k, Nat.zero_add]; rfl
    rw [e] at hc
    have := State.planeCells_lt (by omega) hc
    omega

/-- The loop of PLN2IMG leaves every cell outside the image as it was. -/
theorem State.readImg_unpackImage_other {n a : Nat} {s : State} (hn : n ≤ s.pixels) (h : s.pixels * s.channels ≤ a) :
    (State.iterate State.unpackPixel n 0 s).readImg a = s.readImg a := by
  induction n with
  | zero => rfl
  | succ n ih =>
    have k := unpackImage_only n 0 s
    rw [State.iterate_succ, State.readImg_unpackPixel_other, ih (by omega)]
    intro hc
    have e : (State.iterate State.unpackPixel n 0 s).imageCells (0 + n) = s.imageCells n := by rw [k, Nat.zero_add]; rfl
    rw [e] at hc
    have := State.imageCells_lt (by omega) hc
    omega

/-- A cell of pixel `p`'s holds, after the loop of IMG2PLN, what that pixel's turn wrote. -/
theorem State.readPln_quantizeImage {p n a : Nat} {s : State} (hn : n ≤ s.pixels) (hp : p < n)
    (h : a ∈ s.planeCells p) :
    (State.iterate State.quantizePixel n 0 s).readPln a = (s.quantizePixel p).readPln a := by
  induction n with
  | zero => omega
  | succ n ih =>
    have k := quantizeImage_only n 0 s
    rw [State.iterate_succ, Nat.zero_add]
    by_cases hpn : p = n
    · subst hpn
      generalize State.iterate State.quantizePixel p 0 s = u at k ⊢
      have e1 : u.rgb = s.rgb := by rw [k]; rfl
      have e2 : u.pixels = s.pixels := by rw [k]; rfl
      have e3 : u.cfg = s.cfg := by rw [k]
      have e4 : ∀ x, u.readImg x = s.readImg x := by intro x; rw [k]; rfl
      unfold State.planeCells at h
      unfold State.quantizePixel
      simp only [e1, e3, e4]
      cases hm : s.rgb <;>
        simp only [hm, if_true, if_false, Bool.false_eq_true, List.mem_cons, List.not_mem_nil, or_false,
          State.readPln_storePair, State.readPln_storeQuad, e2] at h ⊢
      · rcases h with h | h <;> (repeat (split; · rfl)) <;> simp_all
      · rcases h with h | h | h | h <;> (repeat (split; · rfl)) <;> simp_all
    · rw [State.readPln_quantizePixel_other, ih (by omega) (by omega)]
      have e : (State.iterate State.quantizePixel n 0 s).planeCells n = s.planeCells n := by rw [k]; rfl
      rw [e]
      exact State.planeCells_disjoint (by omega) (by omega) hpn h

/-- A cell of pixel `p`'s holds, after the loop of PLN2IMG, what that pixel's turn wrote. -/
theorem State.readImg_unpackImage {p n a : Nat} {s : State} (hn : n ≤ s.pixels) (hp : p < n)
    (h : a ∈ s.imageCells p) :
    (State.iterate State.unpackPixel n 0 s).readImg a = (s.unpackPixel p).readImg a := by
  induction n with
  | zero => omega
  | succ n ih =>
    have k := unpackImage_only n 0 s
    rw [State.iterate_succ, Nat.zero_add]
    by_cases hpn : p = n
    · subst hpn
      generalize State.iterate State.unpackPixel p 0 s = u at k ⊢
      have e1 : u.rgb = s.rgb := by rw [k]; rfl
      have e2 : u.pixels = s.pixels := by rw [k]; rfl
      have e4 : ∀ x, u.readPln x = s.readPln x := by intro x; rw [k]; rfl
      unfold State.imageCells at h
      unfold State.unpackPixel
      simp only [e1, e2, e4]
      cases hm : s.rgb <;>
        simp only [hm, if_true, if_false, Bool.false_eq_true, List.mem_cons, List.not_mem_nil, or_false,
          State.readImg_writeImg] at h ⊢
      · rw [if_pos h, if_pos h]
      · rcases h with h | h | h <;> (repeat (split; · rfl)) <;> simp_all
    · rw [State.readImg_unpackPixel_other, ih (by omega) (by omega)]
      have e : (State.iterate State.unpackPixel n 0 s).imageCells n = s.imageCells n := by rw [k]; rfl
      rw [e]
      exact State.imageCells_disjoint hpn h

end Sys2Proof.Machine
end

