-- ==== Sys2Proof/Laws/Runs.lean ====
section
/-! SUPPORT. One run of an RLE row, as the decoder reads it: its control byte in the stream, then a value or literals. -/

namespace Sys2Proof.Machine

/-- The control byte of a row is read, and its run decoded; the cursor is past the control byte (R136). -/
theorem decodeRun_control {dst : Option Nat} {done : Nat} {s : State} (h : s.spos.toNat < s.slen.toNat) :
    decodeRun dst done s =
      (controlRun (s.readStr s.spos.toNat) dst done >>= fun _ => pure (runLength (s.readStr s.spos.toNat)))
        (s.moveCursor 1) := by
  rw [decodeRun, bind_ok (getByte_ok h)]
  rfl

/-- A stream that ends at a control byte (R136). -/
theorem decodeRun_end {dst : Option Nat} {done : Nat} {s : State} (h : ¬ s.spos.toNat < s.slen.toNat) :
    decodeRun dst done s = .error .truncatedData s := by
  rw [decodeRun, bind_error (getByte_error h)]

/-- A repeat run that fits the row (R66, R136): `n` copies, two bytes read. -/
theorem decodeRun_repeat {dst : Option Nat} {done n : Nat} {v : Byte} {s : State} (hn : 1 ≤ n) (hn2 : n ≤ 127)
    (hw : n ≤ s.width.toNat - done) (hs : s.strSlice s.spos.toNat 2 = [BitVec.ofNat 8 (128 + n), v])
    (hr : s.spos.toNat + 2 ≤ s.slen.toNat) :
    decodeRun dst done s = .ok n ((s.fillRow dst done (List.replicate n v)).moveCursor 2) := by
  have hl := s.slen.isLt
  simp only [State.strSlice, List.cons.injEq, and_true] at hs
  have hc : (BitVec.ofNat 8 (128 + n)).toNat = 128 + n := by rw [BitVec.toNat_ofNat]; omega
  have hk : runLength (BitVec.ofNat 8 (128 + n)) = n := by rw [runLength, if_pos (by omega), hc]; omega
  have hm : (s.moveCursor 1).spos.toNat = s.spos.toNat + 1 := State.moveCursor_spos (b := s.slen.toNat) (by omega) hl
  have h0 : BitVec.ofNat 8 (128 + n) ≠ 0#8 := fun e => by
    have := congrArg BitVec.toNat e; rw [hc] at this; simp at this
  have hb : controlRun (BitVec.ofNat 8 (128 + n)) dst done (s.moveCursor 1) =
      .ok () ((s.fillRow dst done (List.replicate n v)).moveCursor 2) := by
    rw [controlRun, if_neg h0, if_pos (by omega), hk, repeatRun_apply, State.moveCursor_width, if_pos hw, hm,
      if_pos (show s.spos.toNat + 1 < (s.moveCursor 1).slen.toNat by rw [State.moveCursor_slen]; omega), State.fillRow_moveCursor, State.moveCursor_moveCursor]
    rw [show (s.moveCursor 1).readStr (s.spos.toNat + 1) = v from hs.2]
  rw [decodeRun_control (by omega), hs.1, bind_ok hb, hk]
  rfl

/-- A dump run that fits the row (R66, R136): its literals, `n + 1` bytes read. -/
theorem decodeRun_dump {dst : Option Nat} {done : Nat} {bs : List Byte} {s : State} (hn : 1 ≤ bs.length)
    (hn2 : bs.length ≤ 128) (hw : bs.length ≤ s.width.toNat - done)
    (hs : s.strSlice s.spos.toNat (bs.length + 1) = BitVec.ofNat 8 bs.length :: bs)
    (hr : s.spos.toNat + (bs.length + 1) ≤ s.slen.toNat) :
    decodeRun dst done s = .ok bs.length ((s.fillRow dst done bs).moveCursor (bs.length + 1)) := by
  have hl := s.slen.isLt
  rw [State.strSlice, List.cons.injEq] at hs
  have hc : (BitVec.ofNat 8 bs.length).toNat = bs.length := by rw [BitVec.toNat_ofNat]; omega
  have hk : runLength (BitVec.ofNat 8 bs.length) = bs.length := by rw [runLength, if_neg (by omega), hc]
  have hm : (s.moveCursor 1).spos.toNat = s.spos.toNat + 1 := State.moveCursor_spos (b := s.slen.toNat) (by omega) hl
  have h0 : BitVec.ofNat 8 bs.length ≠ 0#8 := fun e => by
    have := congrArg BitVec.toNat e; rw [hc] at this; simp at this; subst this; simp at hn
  have hb : controlRun (BitVec.ofNat 8 bs.length) dst done (s.moveCursor 1) =
      .ok () ((s.fillRow dst done bs).moveCursor (bs.length + 1)) := by
    rw [controlRun, if_neg h0, if_neg (by omega), hk, literalRun_apply, State.moveCursor_width, if_pos hw, hm,
      if_pos (show bs.length ≤ (s.moveCursor 1).slen.toNat - (s.spos.toNat + 1) by rw [State.moveCursor_slen]; omega),
      State.moveCursor_strSlice, hs.2, State.fillRow_moveCursor, State.moveCursor_moveCursor,
      Nat.add_comm 1]
  rw [decodeRun_control (by omega), hs.1, bind_ok hb, hk]
  rfl

/-- One turn of the row loop while the row is short (R136). -/
theorem decodeRuns_succ {dst : Option Nat} {fuel done : Nat} {s : State} (h : done < s.width.toNat) :
    decodeRuns dst (fuel + 1) done s = (decodeRun dst done >>= fun n => decodeRuns dst fuel (done + n)) s := by
  rw [decodeRuns, reading_apply, if_pos (decide_eq_true h)]

/-- A full row ends the loop (R136), whatever fuel is left. -/
theorem decodeRuns_full {dst : Option Nat} {fuel done : Nat} {s : State} (h : ¬ done < s.width.toNat) :
    decodeRuns dst fuel done s = .ok () s := by
  cases fuel with
  | zero => rfl
  | succ n =>
    rw [decodeRuns, reading_apply, if_neg (by rw [decide_eq_true_eq]; exact h)]
    rfl

end Sys2Proof.Machine
end

