-- ==== Sys2Proof/Tests/Slice0.lean ====
section
/-! SUPPORT. The model's own tests: well-formedness, decoding of words written out from the spec, one or two single-step
tests per instruction (expected values from spec/95_test_vectors.md, its section named in each docstring), and for every
statement with hypotheses a state and operands that meet them. -/

namespace Sys2Proof.Tests

open Sys2Proof.Machine Sys2Proof.Spec

/-! ### Helpers -/

/-- Small memories with exact fits: 48 words of `IMG`, 64 bytes of `PLN`, 128 bytes of `STR`, default modes. -/
def smallConfig : Config :=
  { imgWords := 48, plnBytes := 64, strBytes := 128#32, negMode := .clamp0, ovfMode := .wrap, nonFinite := .canon }

/-- After reset, with the small memories and a geometry (R17). -/
def machine (w h rgb : Nat) : State :=
  { State.resetWith smallConfig 0 [] with
    width := BitVec.ofNat 32 w, height := BitVec.ofNat 32 h, mode := BitVec.ofNat 32 rgb }

/-- A stream loaded at address 0 (R154). -/
def loaded (bs : List Byte) (s : State) : State :=
  { s.storeBytes 0 bs with slen := BitVec.ofNat 32 bs.length }

/-- Bytes loaded into `PLN` at address 0. -/
def planes (bs : List Byte) (s : State) : State :=
  { s with pln := (List.range bs.length).zip bs }

/-- Words loaded into `IMG` at address 0. -/
def image (ws : List Word) (s : State) : State :=
  { s with img := (List.range ws.length).zip ws }

/-- Bytes as numbers. -/
def bytes (ns : List Nat) : List Byte := ns.map fun n => BitVec.ofNat 8 n

/-- A fault latched by the illegal word 0x05000000 (spec/95 section 7). -/
def faulted (s : State) : State := { s with status := 5#32, ecmd := 0x05000000#32 }

/-- The outcome is a next state in which `p` holds. -/
def holds (o : Host.Outcome State Fault Refusal) (p : State → Bool) : Bool :=
  match o with
  | .next t => p t
  | .fault _ => false
  | .refused _ => false

/-- `PLN` lists exactly these bytes from address `a` on, up to the first gap. -/
def plnIs (a : Nat) (ns : List Nat) (t : State) : Bool :=
  ((List.range ns.length).map fun i => Memory.cell? t.pln (a + i)) == ns.map fun n => some (BitVec.ofNat 8 n)

/-- `STR` holds exactly these bytes from address `a` on. -/
def strIs (a : Nat) (ns : List Nat) (t : State) : Bool :=
  ((List.range ns.length).map fun i => Memory.cell? t.str (a + i)) == ns.map fun n => some (BitVec.ofNat 8 n)

/-- `IMG` holds exactly these words from address `a` on. -/
def imgIs (a : Nat) (ws : List Word) (t : State) : Bool :=
  ((List.range ws.length).map fun i => Memory.cell? t.img (a + i)) == ws.map some

/-- The header `-Y 1 +X 8` (spec/95 section 9, P2). -/
def header8 : List Byte :=
  bytes ([0x23, 0x3F, 0x52, 0x47, 0x42, 0x45, 0x0A] ++ [0x46, 0x4F, 0x52, 0x4D, 0x41, 0x54, 0x3D, 0x33, 0x32, 0x2D]
    ++ [0x62, 0x69, 0x74, 0x5F, 0x72, 0x6C, 0x65, 0x5F, 0x72, 0x67, 0x62, 0x65, 0x0A, 0x0A]
    ++ [0x2D, 0x59, 0x20, 0x31, 0x20, 0x2B, 0x58, 0x20, 0x38, 0x0A])

/-! ### Well-formedness -/

/-- R66: a dump of 0 literals is RLE_ZERO, not RLE_DUMP. -/
theorem test_dump_zero_ill_formed : (Instr.rleDump 0#7).wellFormed = false := by decide

/-- R66: control byte 128 is RLE_DUMP128, not a repeat of 0. -/
theorem test_repeat_zero_ill_formed : (Instr.rleRepeat 0#7).wellFormed = false := by decide

/-- R66: control byte 129 is RLE_REPEAT1. -/
theorem test_repeat_one_ill_formed : (Instr.rleRepeat 1#7).wellFormed = false := by decide

/-! ### Decoding: words written out from R61, R65 to R67, R72 -/

theorem test_decode_nop : decode (.command 0x00000000#32) = .ok .nop := by decide
theorem test_decode_f2rgbe : decode (.command 0x01000000#32) = .ok .f2rgbe := by decide
theorem test_decode_rgbe2f : decode (.command 0x02000000#32) = .ok .rgbe2f := by decide
theorem test_decode_f2re : decode (.command 0x03000000#32) = .ok .f2re := by decide
theorem test_decode_re2f : decode (.command 0x04000000#32) = .ok .re2f := by decide
theorem test_decode_plnClr : decode (.command 0x10000000#32) = .ok .plnClr := by decide
theorem test_decode_insRgbe : decode (.command 0x11000000#32) = .ok .insRgbe := by decide
theorem test_decode_insRe : decode (.command 0x12000000#32) = .ok .insRe := by decide
theorem test_decode_img2pln : decode (.command 0x13000000#32) = .ok .img2pln := by decide
theorem test_decode_pln2img : decode (.command 0x14000000#32) = .ok .pln2img := by decide
theorem test_decode_hdrWr : decode (.command 0x20000000#32) = .ok .hdrWr := by decide
theorem test_decode_hdrRd : decode (.command 0x21000000#32) = .ok .hdrRd := by decide
theorem test_decode_rleEnc : decode (.command 0x30000003#32) = .ok (.rleEnc 3#2) := by decide
theorem test_decode_encScan : decode (.command 0x31000000#32) = .ok .encScan := by decide
theorem test_decode_encImage : decode (.command 0x32000000#32) = .ok .encImage := by decide
theorem test_decode_rleDec : decode (.command 0x40000002#32) = .ok (.rleDec 2#2) := by decide
theorem test_decode_decScan : decode (.command 0x41000000#32) = .ok .decScan := by decide
theorem test_decode_decImage : decode (.command 0x42000000#32) = .ok .decImage := by decide
theorem test_decode_srst : decode (.command 0xFF000000#32) = .ok .srst := by decide
theorem test_decode_rleZero : decode (.control 0b00000000#8) = .ok .rleZero := by decide
theorem test_decode_rleDump : decode (.control 0b01111111#8) = .ok (.rleDump 127#7) := by decide
theorem test_decode_rleDump128 : decode (.control 0b10000000#8) = .ok .rleDump128 := by decide
theorem test_decode_rleRepeat1 : decode (.control 0b10000001#8) = .ok .rleRepeat1 := by decide
theorem test_decode_rleRepeat : decode (.control 0b10000010#8) = .ok (.rleRepeat 2#7) := by decide
theorem test_decode_scanMarker : decode (.head 0x02020102#32) = .ok (.scanMarker 1#8 2#8) := by decide
theorem test_decode_rgbeQuad : decode (.pixel 0x80402081#32) = .ok (.rgbeQuad 0x80#8 0x40#8 0x20#8 0x81#8) := by decide

/-- Spec/95 section 7: an unassigned opcode. -/
theorem test_decode_unassigned : decode (.command 0x05000000#32) = .error .unassignedOpcode := by decide

/-- Spec/95 section 7: bit 0 in the zero field of format Z, bit 2 in that of format K. -/
theorem test_decode_zero_field :
    decode (.command 0x01000001#32) = .error .zeroFieldNotZero ∧
    decode (.command 0x30000004#32) = .error .zeroFieldNotZero := by decide

/-- The opcode table's numbering, one row of each kind. -/
theorem test_table_word :
    decodeTableWord 32 0x40000001 = some (.rleDec 1#2) ∧ decodeTableWord 8 0xFF = some (.rleRepeat 127#7) ∧
    decodeTableWord 32 0x02020008 = some (.scanMarker 0#8 8#8) ∧
    decodeTableWord 32 0x80402081 = some (.rgbeQuad 0x80#8 0x40#8 0x20#8 0x81#8) := by decide

/-! ### Control -/

/-- Spec/95 section 7: `cmd NOP` changes nothing. -/
theorem test_nop : holds (exec .nop (faulted (machine 3 2 1))) (· == faulted (machine 3 2 1)) = true := by decide

/-- Spec/95 section 7: `cmd SRST` in a fault state. -/
theorem test_srst :
    holds (exec .srst (faulted (planes [1#8] (machine 3 2 1))))
      (· == planes [1#8] (State.resetWith smallConfig 0 [])) = true := by decide

/-- Spec/95 section 7: the illegal word 0x05000000. -/
theorem test_illegal_word :
    holds (execute 0x05000000#32 (machine 0 0 0)) (fun t => t.statusWord == 5#32 && t.ecmd == 0x05000000#32) = true := by
  decide

/-- Spec/95 section 7: `MODE` keeps one bit, `SLEN` stops at the capacity, `STATUS` is not writable. -/
theorem test_host_writes :
    holds (perform (.writeReg 0x06 0xFFFFFFFF#32) (machine 0 0 0)) (·.mode == 1#32) = true ∧
    holds (perform (.writeReg 0x0B 0xFFFFFFFF#32) (machine 0 0 0)) (·.slen == 128#32) = true ∧
    holds (perform (.writeReg 0x0C 0xFF#32) (machine 0 0 0)) (· == machine 0 0 0) = true := by decide

/-! ### Color Converter -/

/-- The three operands and the quad (spec/95 section 2). -/
def packed (w0 w1 w2 : Word) (o : Instr) : Word :=
  match exec o { machine 0 0 0 with f0 := w0, f1 := w1, f2 := w2 } with
  | .next t => t.q
  | .fault _ => 0xDEADBEEF#32
  | .refused _ => 0xDEADBEEF#32

/-- Spec/95 section 2: 0.9, 0.5, 0.1; a negative channel; the threshold's first pattern. -/
theorem test_f2rgbe :
    packed 0x3F666666#32 0x3F000000#32 0x3DCCCCCD#32 .f2rgbe = 0xE6801980#32 ∧
    packed 0xBF800000#32 0x40000000#32 0x3F000000#32 .f2rgbe = 0x00802082#32 ∧
    packed 0x0A4FB11F#32 0#32 0#32 .f2rgbe = 0xCF000016#32 := by decide

/-- Spec/95 section 2: the wrapped exponent, infinity and NaN. -/
theorem test_f2rgbe_extremes :
    packed 0x7F7FFFFF#32 0x7F000000#32 0x7E800000#32 .f2rgbe = 0xFF804000#32 ∧
    packed 0x7F800000#32 0x3F800000#32 0#32 .f2rgbe = 0xFF000000#32 ∧
    packed 0xFFC00000#32 0x3F800000#32 0#32 .f2rgbe = 0x00800081#32 := by decide

/-- Spec/95 section 2: `wrap8` and `sat255`. -/
theorem test_pack_modes :
    (floatToRgbe { smallConfig with negMode := .wrap8 } 0xBF800000#32 0x40000000#32 0x3F000000#32).word = 0xC0802082#32 ∧
    (floatToRgbe { smallConfig with ovfMode := .sat255 } 0x7F7FFFFF#32 0x7F000000#32 0x7E800000#32).word =
      0xFFFF80FF#32 := by decide

/-- Spec/95 section 2: F2RE of 100; `F1` and `F2` are not read. -/
theorem test_f2re : packed 0x42C80000#32 0x7F7FFFFF#32 0xBF800000#32 .f2re = 0xC8C8C887#32 := by decide

/-- Spec/95 section 3: across the normal and subnormal boundary; `E = 0`. -/
theorem test_rgbe2f :
    holds (exec .rgbe2f { machine 0 0 0 with q := 0xFF800103#32 })
      (fun t => t.f0 == 0x00FF0000#32 && t.f1 == 0x00800000#32 && t.f2 == 0x00010000#32) = true ∧
    holds (exec .rgbe2f { machine 0 0 0 with q := 0x01020300#32, f0 := 1#32 })
      (fun t => t.f0 == 0#32 && t.f1 == 0#32 && t.f2 == 0#32) = true := by decide

/-- Spec/95 section 3: RE2F reads the first and the last byte. -/
theorem test_re2f :
    holds (exec .re2f { machine 0 0 0 with q := 0xC0123481#32 })
      (fun t => t.f0 == 0x3FC00000#32 && t.f1 == 0x3FC00000#32 && t.f2 == 0x3FC00000#32) = true := by decide

/-! ### Plane buffer (spec/95 section 6a) -/

theorem test_plnClr :
    holds (exec .plnClr (planes (bytes [9, 9, 9, 9, 9, 7]) (machine 2 1 0)))
      (fun t => plnIs 0 [0, 0, 0, 0, 9, 7] t && t.statusWord == 0#32) = true := by decide

/-- A width of 65536 by 65536 is not truncated to 0 pixels. -/
theorem test_plnClr_no_wrap :
    holds (exec .plnClr (machine 65536 65536 1)) (fun t => t.statusWord == 5#32 && t.ecmd == 0x10000000#32) = true := by
  decide

theorem test_insRgbe :
    holds (exec .insRgbe
        { machine 3 2 0 with px := 1#32, py := 1#32, f0 := 0x3F800000#32, f1 := 0x3F000000#32, f2 := 0x3E800000#32 })
      (fun t => t.q == 0x80402081#32 && t.pln == [(4, 0x80#8), (10, 0x40#8), (16, 0x20#8), (22, 0x81#8)]) = true := by
  decide

theorem test_insRgbe_outside :
    holds (exec .insRgbe { machine 3 2 1 with px := 3#32 })
      (fun t => t.statusWord == 5#32 && t.ecmd == 0x11000000#32 && t.pln == []) = true := by decide

theorem test_insRe :
    holds (exec .insRe { machine 3 2 1 with px := 2#32, f0 := 0x3FC00000#32 })
      (fun t => t.q == 0xC0C0C081#32 && t.pln == [(2, 0xC0#8), (8, 0x81#8)]) = true := by decide

theorem test_insRe_outside :
    holds (exec .insRe { machine 3 2 0 with py := 2#32 })
      (fun t => t.statusWord == 5#32 && t.ecmd == 0x12000000#32 && t.q == 0#32) = true := by decide

theorem test_img2pln_rgb :
    holds (exec .img2pln (image [0x3F800000#32, 0x3F000000#32, 0x3E800000#32, 0#32, 0#32, 0#32] (machine 2 1 1)))
      (plnIs 0 [0x80, 0x00, 0x40, 0x00, 0x20, 0x00, 0x81, 0x00]) = true := by decide +kernel

theorem test_img2pln_gray :
    holds (exec .img2pln (image [0x3FC00000#32, 0x3E800000#32, 0x42C80000#32, 0xBF800000#32] (machine 2 2 0)))
      (plnIs 0 [0xC0, 0x80, 0xC8, 0x00, 0x81, 0x7F, 0x87, 0x00]) = true := by decide +kernel

theorem test_pln2img_rgb :
    holds (exec .pln2img (planes (bytes [0x03, 0xFF, 0xC8, 0x01, 0x00, 0x00, 0x88, 0x00]) (machine 2 1 1)))
      (imgIs 0 [0x40400000#32, 0x43480000#32, 0#32, 0#32, 0#32, 0#32]) = true := by decide +kernel

theorem test_pln2img_gray :
    holds (exec .pln2img (planes (bytes [0xC0, 0x80, 0xC8, 0x00, 0x81, 0x7F, 0x87, 0x00]) (machine 2 2 0)))
      (imgIs 0 [0x3FC00000#32, 0x3E800000#32, 0x42C80000#32, 0#32]) = true := by decide +kernel

/-! ### Header (spec/95 section 4) -/

theorem test_hdrWr :
    holds (exec .hdrWr (machine 8 1 0))
      (fun t => t.str == (loaded header8 (machine 8 1 0)).str && t.spos == 41#32 && t.slen == 41#32) = true := by
  decide +kernel

theorem test_hdrWr_zero :
    holds (exec .hdrWr (machine 0 5 0)) (fun t => t.statusWord == 5#32 && t.str == [] && t.spos == 0#32) = true := by
  decide

theorem test_hdrRd :
    holds (exec .hdrRd (loaded header8 (machine 0 0 0)))
      (fun t => t.width == 8#32 && t.height == 1#32 && t.spos == 41#32 && t.statusWord == 0#32) = true := by
  decide +kernel

/-- Wrong magic: reading stops after the first line. -/
theorem test_hdrRd_magic :
    holds (exec .hdrRd (loaded (bytes [0x23, 0x3F, 0x52, 0x0A, 0x2D]) (machine 0 0 0)))
      (fun t => t.statusWord == 1#32 && t.spos == 4#32 && t.ecmd == 0x21000000#32 && t.width == 0#32) = true := by
  decide +kernel

/-! ### Scanline Encoder (spec/95 sections 5 and 6) -/

/-- `01 02 03 03 03 04 05 05`. -/
theorem test_rleEnc :
    holds (exec (.rleEnc 1#2) (planes (bytes [0, 0, 0, 0, 0, 0, 0, 0, 1, 2, 3, 3, 3, 4, 5, 5]) (machine 8 1 0)))
      (fun t => strIs 0 [2, 1, 2, 0x83, 3, 1, 4, 0x82, 5] t && t.spos == 9#32 && t.slen == 9#32 && t.ycnt == 0#32)
      = true := by decide +kernel

/-- With `MODE = 0`, RLE_ENC 2 raises ConfigFault: `k >= P`. -/
theorem test_rleEnc_no_plane :
    holds (exec (.rleEnc 2#2) (machine 8 1 0)) (fun t => t.statusWord == 5#32 && t.ecmd == 0x30000002#32) = true := by
  decide

/-- 130 bytes `07` are two runs, 127 then 3 (section 1, property 3). -/
theorem test_rle_boundary :
    rleEncodeRow (List.replicate 130 7#8) = [0xFF#8, 7#8, 0x83#8, 7#8] := by decide +kernel

/-- Width 7 is flat: the quads R, R, R, E (section 6, P4). -/
theorem test_encScan_flat :
    holds (exec .encScan
        (planes (bytes [0x80, 0x80, 0x80, 0, 0xC0, 0xC8, 0, 0x80, 0x81, 0x82, 0, 0x80, 0x87, 0]) (machine 7 1 0)))
      (fun t => strIs 0 [0x80, 0x80, 0x80, 0x80, 0x80, 0x80, 0x80, 0x81, 0x80, 0x80, 0x80, 0x82] t &&
        t.spos == 28#32 && t.ycnt == 1#32 && t.strat == false) = true := by decide +kernel

/-- Width 8 is RLE: the marker, then R three times and E (section 6). -/
theorem test_encScan_rle :
    holds (exec .encScan (planes (List.replicate 8 0x80#8 ++ List.replicate 8 0x81#8) (machine 8 1 0)))
      (fun t => strIs 0 [2, 2, 0, 8, 0x88, 0x80, 0x88, 0x80, 0x88, 0x80, 0x88, 0x81] t &&
        t.spos == 12#32 && t.ycnt == 1#32 && t.statusWord == 0x10#32) = true := by decide +kernel

/-- The image of eight gray samples 1.0 (section 6): header, marker, four runs. -/
theorem test_encImage :
    holds (exec .encImage (image (List.replicate 8 0x3F800000#32) (machine 8 1 0)))
      (fun t => strIs 41 [2, 2, 0, 8, 0x88, 0x80, 0x88, 0x80, 0x88, 0x80, 0x88, 0x81] t && strIs 0 [0x23, 0x3F] t &&
        t.slen == 53#32 && t.ycnt == 1#32 && t.statusWord == 0x10#32) = true := by decide +kernel

/-! ### Scanline Decoder (spec/95 sections 5, 6 and 9) -/

/-- Section 5: `02 01 02 82 09 AA` with `WIDTH = 4`. -/
theorem test_rleDec :
    holds (exec (.rleDec 1#2) (loaded (bytes [2, 1, 2, 0x82, 9, 0xAA]) (machine 4 1 0)))
      (fun t => t.pln == [(4, 1#8), (5, 2#8), (6, 9#8), (7, 9#8)] && t.spos == 5#32 && t.statusWord == 0#32) = true := by
  decide +kernel

/-- Section 5: `03 01 02` with `WIDTH = 4` ends inside a dump, two bytes stored. -/
theorem test_rleDec_truncated :
    holds (exec (.rleDec 0#2) (loaded (bytes [3, 1, 2]) (machine 4 1 0)))
      (fun t => t.pln == [(0, 1#8), (1, 2#8)] && t.spos == 3#32 && t.statusWord == 2#32 && t.ecmd == 0x40000000#32)
      = true := by decide +kernel

/-- P3: a flat scanline (two of its pixels). -/
theorem test_decScan_flat :
    holds (exec .decScan (loaded (bytes [0x80, 0x40, 0x20, 0x81, 0xE6, 0x80, 0x19, 0x80]) (machine 2 1 1)))
      (fun t => plnIs 0 [0x80, 0xE6, 0x40, 0x80, 0x20, 0x19, 0x81, 0x80] t && t.spos == 8#32 && t.ycnt == 1#32 &&
        t.strat == false) = true := by decide +kernel

/-- P3: an RLE scanline with the decoder-only control 129; gray keeps the R and E planes. -/
theorem test_decScan_rle :
    holds (exec .decScan (loaded (bytes [2, 2, 0, 3, 0x81, 5, 0x81, 6, 1, 7, 0x83, 0, 0x83, 0, 0x83, 0x81]) (machine 3 1 0)))
      (fun t => t.pln == (planes (bytes [5, 6, 7, 0x81, 0x81, 0x81]) t).pln && t.spos == 16#32 &&
        t.statusWord == 0x10#32) = true := by decide +kernel

/-- Section 6 read back: the file of eight gray samples 1.0. -/
theorem test_decImage :
    holds (exec .decImage (loaded (header8 ++ bytes [2, 2, 0, 8, 0x88, 0x80, 0x88, 0x80, 0x88, 0x80, 0x88, 0x81])
        (machine 0 0 0)))
      (fun t => t.width == 8#32 && t.height == 1#32 && t.spos == 53#32 && t.ycnt == 1#32 && t.statusWord == 0x10#32 &&
        imgIs 0 (List.replicate 8 0x3F800000#32) t) = true := by decide +kernel

/-- P5: the stream ends in the scanline; `IMG` is not written. -/
theorem test_decImage_truncated :
    holds (exec .decImage (image [0xDEADBEEF#32] (loaded (header8 ++ bytes [2, 2, 0, 8, 0x88]) (machine 0 0 0))))
      (fun t => t.statusWord == 2#32 && t.ecmd == 0x42000000#32 && t.spos == 46#32 && t.ycnt == 0#32 &&
        t.img == [(0, 0xDEADBEEF#32)]) = true := by decide +kernel

/-! ### Stream tokens (spec/95 section 5, one run each) -/

/-- Inside RLE_DEC 0 with `done` bytes of the row produced and the control byte already read. -/
def inRow (done : Nat) (s : State) : State := s.decodeAt (.rleDec 0#2) (.row (some 0) done [])

theorem test_token_zero :
    holds (exec .rleZero (inRow 1 (machine 4 1 0)))
      (fun t => t.statusWord == 4#32 && t.ecmd == 0x40000000#32 && t.decoding == none) = true := by decide

theorem test_token_dump :
    holds (exec (.rleDump 2#7) (inRow 1 (loaded (bytes [8, 9]) (machine 4 1 0))))
      (fun t => t.pln == [(1, 8#8), (2, 9#8)] && t.spos == 2#32 && t.decoding == (inRow 3 t).decoding) = true := by
  decide +kernel

/-- A dump of 128 into a row of 4 is too long. -/
theorem test_token_dump128 :
    holds (exec .rleDump128 (inRow 0 (machine 4 1 0))) (fun t => t.statusWord == 4#32 && t.pln == []) = true := by
  decide

theorem test_token_repeat1 :
    holds (exec .rleRepeat1 (inRow 3 (loaded (bytes [5]) (machine 4 1 0))))
      (fun t => t.pln == [(3, 5#8)] && t.spos == 1#32 && t.decoding == none) = true := by decide

/-- Repeat of 3 when 2 are missing: the value byte is not read. -/
theorem test_token_repeat_too_long :
    holds (exec (.rleRepeat 3#7) (inRow 2 (loaded (bytes [9]) (machine 4 1 0))))
      (fun t => t.statusWord == 4#32 && t.spos == 0#32 && t.pln == []) = true := by decide

/-- Section 6: with `WIDTH = 258` the bytes `02 02 01 02` are a marker. -/
theorem test_token_marker :
    holds (exec (.scanMarker 1#8 2#8)
        (({ machine 258 1 0 with cfg := { smallConfig with plnBytes := 516 } }).decodeAt .decScan .head))
      (fun t => t.decoding == some ⟨.decScan, .row (some 0) 0 [none, none, some 258]⟩) = true := by decide

theorem test_token_quad :
    holds (exec (.rgbeQuad 0xE6#8 0x80#8 0x19#8 0x80#8) ((machine 2 1 1).decodeAt .decScan (.flat 1)))
      (fun t => t.pln == [(1, 0xE6#8), (3, 0x80#8), (5, 0x19#8), (7, 0x80#8)] && t.ycnt == 1#32 && t.decoding == none)
      = true := by decide

/-! ### Steps -/

/-- A word that is no command, placed, runs as a stream unit (a quad); a command word runs as the host's next action
(log 11). -/
theorem test_step_command :
    holds (step (State.reset.withFetchWord 32 0x05000000)) (fun t => t.statusWord == 0#32) = true ∧
    holds (step (State.reset.withFetchWord 32 0x20000000)) (fun t => t.statusWord == 5#32 && t.ecmd == 0x20000000#32)
      = true := by decide +kernel

/-- A control byte placed in the stream runs as the first token (log 11). -/
theorem test_step_control :
    holds (step (State.reset.withFetchWord 8 0x00)) (fun t => t.statusWord == 4#32 && t.ecmd == 0x40000000#32) = true := by
  decide +kernel

/-! ### Witnesses: for every statement with hypotheses, a state and operands that meet them together

Each docstring names the statements it serves; a statement with several clauses has one conjunct for each clause, at a
boundary value of its range. -/

theorem ready (w h rgb : Nat) : (machine w h rgb).Ready := ⟨rfl, rfl⟩

/-- Bytes loaded at 0 are what the stream holds next. -/
theorem next_of_slice {s : State} {bs : List Byte} (h0 : s.spos = 0#32)
    (h : ((List.range bs.length).map fun i => s.readStr i) = bs) (hl : bs.length ≤ s.slen.toNat) : Next s bs := by
  have z : s.spos.toNat = 0 := by rw [h0]; rfl
  refine ⟨fun i hi => ?_, by omega⟩
  have e := congrArg (fun l => l[i]?) h
  simp only [List.getElem?_map, List.getElem?_range hi, Option.map_some, List.getElem?_eq_getElem hi,
    Option.some.injEq] at e
  rw [z, Nat.zero_add]
  exact e

/-- Bytes loaded at 0 are all that the stream holds. -/
theorem rest_of_slice {s : State} {bs : List Byte} (h0 : s.spos = 0#32)
    (h : ((List.range bs.length).map fun i => s.readStr i) = bs) (hl : bs.length = s.slen.toNat) : Rest s bs := by
  have z : s.spos.toNat = 0 := by rw [h0]; rfl
  exact ⟨(next_of_slice h0 h hl.le).1, by omega⟩

/-- A cursor at or past the end of the stream finds nothing (R19). -/
theorem rest_of_past {s : State} (h : s.slen.toNat ≤ s.spos.toNat) : Rest s [] :=
  ⟨fun _ hi => absurd hi (Nat.not_lt_zero _), by simp only [List.length_nil]; omega⟩

/-- A cursor past the end of the stream, as a host write leaves it. -/
def past (s : State) : State := { s with spos := 2#32, slen := 1#32 }

/-- An outcome that passes a check is a next state. -/
theorem next_of_holds {o : Host.Outcome State Fault Refusal} {p : State → Bool} (h : holds o p = true) :
    ∃ t, o = .next t ∧ p t = true := by
  cases o with
  | next t => exact ⟨t, rfl, h⟩
  | fault _ => cases h
  | refused _ => cases h

/-- For DecodeOfEncodeIsTheInstruction: the bounds of the two checked fields. -/
theorem witness_wellFormed :
    (Instr.rleDump 1#7).wellFormed = true ∧ (Instr.rleDump 127#7).wellFormed = true ∧
    (Instr.rleRepeat 2#7).wellFormed = true ∧ (Instr.rleRepeat 127#7).wellFormed = true := by decide

/-- For EncodeOfDecodedIsTheCode: a code of each kind, and the two readings of a head. -/
theorem witness_decodes :
    decode (.command 0x40000003#32) = .ok (.rleDec 3#2) ∧ decode (.control 0x81#8) = .ok .rleRepeat1 ∧
    decode (.pixel 0x02020008#32) = .ok (.rgbeQuad 2#8 2#8 0#8 8#8) ∧
    decode (.head 0x02020008#32) = .ok (.scanMarker 0#8 8#8) ∧
    decode (.head 0x03020008#32) = .ok (.rgbeQuad 3#8 2#8 0#8 8#8) := by decide

/-- For IllegalWordRaisesConfigFault: a word of no row, in a ready and in a faulted machine. -/
theorem witness_illegal :
    (machine 4 4 1).decoding = none ∧ (machine 4 4 1).err = 0#4 ∧ (faulted (machine 4 4 1)).decoding = none ∧
    (faulted (machine 4 4 1)).err ≠ 0#4 ∧ ¬ MatchesRow 0x30000004#32 := by
  refine ⟨rfl, rfl, rfl, by decide, ?_⟩
  intro ⟨r, hr, h⟩
  simp only [opcodeRows, List.cons_append, List.nil_append, List.mem_cons, List.not_mem_nil, or_false] at hr
  rcases hr with rfl | rfl | rfl | rfl | rfl | rfl | rfl | rfl | rfl | rfl | rfl | rfl | rfl | rfl | rfl | rfl | rfl |
    rfl | rfl <;> revert h <;> decide

/-- A machine at the head of a scanline of width 1, with exactly four stream bytes. -/
def atHead : State := (loaded (bytes [2, 2, 0, 4]) (machine 1 1 0)).decodeAt .decScan .head

theorem next_atHead : Next atHead [2#8, 2#8, 0#8, 4#8] := next_of_slice rfl (by decide) (by decide)

/-- For StepRunsDecodedInstruction: an exhausted program; a command and an illegal word as the next action; the last byte
of a row with and without a control byte in the stream; exactly four bytes at a head and at the last flat pixel; two bytes
at a head, and a cursor past the end at a flat pixel. -/
theorem witness_step :
    ((machine 4 4 1).decoding = none ∧ (machine 4 4 1).program.length ≤ (machine 4 4 1).pc) ∧
    (let s := { machine 4 4 1 with program := [.writeReg 0x0E 0x10000000#32] }
     s.decoding = none ∧ s.program[s.pc]? = some (.writeReg 0x0E 0x10000000#32) ∧
      decode (.command 0x10000000#32) = .ok .plnClr) ∧
    (let s := { machine 4 4 1 with program := [.writeReg 0x0E 0x05000000#32] }
     s.decoding = none ∧ s.program[s.pc]? = some (.writeReg 0x0E 0x05000000#32)) ∧
    (let s := inRow 3 (loaded (bytes [0x81]) (machine 4 1 0))
     s.decoding = some ⟨.rleDec 0#2, .row (some 0) 3 []⟩ ∧
      s.decodable ⟨.rleDec 0#2, .row (some 0) 3 []⟩ = true ∧ s.spos.toNat < s.slen.toNat) ∧
    (let s := inRow 3 (machine 4 1 0)
     s.decoding = some ⟨.rleDec 0#2, .row (some 0) 3 []⟩ ∧
      s.decodable ⟨.rleDec 0#2, .row (some 0) 3 []⟩ = true ∧ ¬ s.spos.toNat < s.slen.toNat) ∧
    (Next atHead [2#8, 2#8, 0#8, 4#8] ∧ atHead.decoding = some ⟨.decScan, .head⟩ ∧
      atHead.decodable ⟨.decScan, .head⟩ = true) ∧
    (let s := atHead.decodeAt .decScan (.flat 0)
     Next s [2#8, 2#8, 0#8, 4#8] ∧ s.decoding = some ⟨.decScan, .flat 0⟩ ∧ s.decodable ⟨.decScan, .flat 0⟩ = true) ∧
    (let s := (loaded (bytes [2, 2]) (machine 1 1 0)).decodeAt .decScan .head
     Rest s [2#8, 2#8] ∧ s.decoding = some ⟨.decScan, .head⟩ ∧ s.decodable ⟨.decScan, .head⟩ = true) ∧
    (let s := (past (machine 1 1 0)).decodeAt .decImage (.flat 0)
     Rest s [] ∧ s.decoding = some ⟨.decImage, .flat 0⟩ ∧ s.decodable ⟨.decImage, .flat 0⟩ = true) :=
  ⟨⟨rfl, by decide⟩, by decide, by decide, by decide, by decide, ⟨next_atHead, rfl, by decide⟩,
    ⟨next_atHead, rfl, by decide⟩, ⟨rest_of_slice rfl (by decide) (by decide), rfl, by decide⟩,
    rest_of_past (by decide), rfl, by decide⟩

/-- For ControlCommands, FaultStateIgnoresCommands: the fault state; a command that is not SRST; a register that is not
`CMD`; the last cell of each memory. -/
theorem witness_faulted :
    let s := faulted (machine 4 4 1)
    s.decoding = none ∧ s.err ≠ 0#4 ∧ (0xFE000000#32 : Word) ≠ 0xFF000000#32 ∧ isCommand .decImage = true ∧
    Instr.decImage ≠ .srst ∧ 47 < s.cfg.imgWords ∧ 63 < s.cfg.plnBytes ∧ 127 < s.cfg.strBytes.toNat := by decide

/-- For CommandsRefusedWhileBusy. -/
theorem witness_busy : isCommand .srst = true ∧ ((machine 4 4 1).decodeAt .decScan .head).decoding.isSome = true := by
  decide

/-- For HardResetValues. -/
theorem witness_hardReset :
    let s := { faulted (machine 4 4 1) with program := [.hardReset] }
    s.decoding = none ∧ s.program[s.pc]? = some .hardReset := by decide

/-- For PackCommandsWriteQ, UnpackCommandsWriteFloats, RegisterCommandFrame. -/
theorem witness_ready : (machine 4 4 1).Ready := ready 4 4 1

/-- For PackIsBitLevelForm and NonFiniteOperandsAreCanonicalised: a NaN, positive and negative infinity. -/
theorem witness_canon :
    DefaultModes smallConfig ∧ Canon 0xFFC00000#32 0#32 ∧ Canon 0x7F800000#32 0x7F7FFFFF#32 ∧
    Canon 0xFF800000#32 0xFF800000#32 ∧ smallConfig.negMode = .clamp0 := by
  refine ⟨⟨rfl, rfl, rfl⟩, ?_, ?_, ?_, rfl⟩ <;> simp [Canon, isNan, expOf, fracOf]

/-- For UnpackedChannelIsExact: both exponent cases. -/
theorem witness_exponents : (0#8 : Byte) = 0#8 ∧ (1#8 : Byte) ≠ 0#8 := by decide

theorem real_one : real 0x3F800000#32 = 1 := by
  rw [real, show signOf 0x3F800000#32 = 0 by decide, show expOf 0x3F800000#32 = 127 by decide,
    show fracOf 0x3F800000#32 = 0 by decide]
  norm_num

theorem real_minus_two : real 0xC0000000#32 = -2 := by
  rw [real, show signOf 0xC0000000#32 = 1 by decide, show expOf 0xC0000000#32 = 128 by decide,
    show fracOf 0xC0000000#32 = 0 by decide]
  norm_num

theorem real_overflow : real 0x7F000000#32 = 2 ^ (127 : ℤ) := by
  rw [real, show signOf 0x7F000000#32 = 0 by decide, show expOf 0x7F000000#32 = 254 by decide,
    show fracOf 0x7F000000#32 = 0 by decide]
  norm_num

theorem real_zero : real 0#32 = 0 := by
  rw [real, show signOf 0#32 = 0 by decide, show expOf 0#32 = 0 by decide, show fracOf 0#32 = 0 by decide]
  norm_num

/-- For PackTruncatesScaledChannels: 1, -2 and 0 with `e = 1`, in both negative modes, with `wrap`, and below 2^127 as
`sat255` asks. -/
theorem witness_pack :
    smallConfig.ovfMode = .wrap ∧ maxReal 0x3F800000#32 0xC0000000#32 0#32 < 2 ^ (127 : ℤ) ∧
    ({ smallConfig with ovfMode := .sat255 } : Config).ovfMode = .sat255 ∧
    isFinite 0x3F800000#32 ∧ isFinite 0xC0000000#32 ∧ isFinite 0#32 ∧
    1 / 10 ^ 32 ≤ maxReal 0x3F800000#32 0xC0000000#32 0#32 ∧
    (2 : ℚ) ^ ((1 : ℤ) - 1) ≤ maxReal 0x3F800000#32 0xC0000000#32 0#32 ∧
    maxReal 0x3F800000#32 0xC0000000#32 0#32 < 2 ^ (1 : ℤ) ∧ 0 ≤ real 0x3F800000#32 ∧ real 0xC0000000#32 < 0 ∧
    smallConfig.negMode = .clamp0 ∧ ({ smallConfig with negMode := .wrap8 } : Config).negMode = .wrap8 := by
  rw [maxReal, real_one, real_minus_two, real_zero]
  refine ⟨rfl, ?_, rfl, by unfold isFinite; decide, by unfold isFinite; decide, by unfold isFinite; decide, ?_, ?_, ?_, ?_,
    ?_, rfl, rfl⟩ <;> norm_num

/-- For BelowThresholdPacksToZero: three finite operands with a maximum below the threshold. -/
theorem witness_threshold : isFinite 0#32 ∧ maxReal 0#32 0#32 0#32 < 1 / 10 ^ 32 := by
  refine ⟨by unfold isFinite; decide, ?_⟩
  rw [maxReal, real_zero]; norm_num

/-- For ExponentOverflowFollowsOvfMode: the smallest maximum that overflows, beside a negative channel, in both modes. -/
theorem witness_overflow :
    isFinite 0x7F000000#32 ∧ isFinite 0xC0000000#32 ∧ isFinite 0#32 ∧
    (2 : ℚ) ^ (127 : ℤ) ≤ maxReal 0x7F000000#32 0xC0000000#32 0#32 ∧
    smallConfig.ovfMode = .wrap ∧ ({ smallConfig with ovfMode := .sat255 } : Config).ovfMode = .sat255 ∧
    0 ≤ real 0x7F000000#32 ∧ real 0xC0000000#32 < 0 ∧ -(2 ^ (127 : ℤ)) < real 0xC0000000#32 := by
  refine ⟨by unfold isFinite; decide, by unfold isFinite; decide, by unfold isFinite; decide, ?_, rfl, rfl, ?_, ?_, ?_⟩
  · rw [maxReal, real_overflow]; exact le_max_left _ _
  · rw [real_overflow]; norm_num
  · rw [real_minus_two]; norm_num
  · rw [real_minus_two]; norm_num

/-- For PackThenUnpackErrorBound: non-negative operands with a positive and with a zero maximum. -/
theorem witness_error_bound :
    ((∀ w ∈ [0x3F800000#32, 0#32, 0#32], expOf w ≤ 253 ∧ 0 ≤ real w) ∧
      1 / 10 ^ 32 ≤ maxReal 0x3F800000#32 0#32 0#32 ∧ (2 : ℚ) ^ ((1 : ℤ) - 1) ≤ maxReal 0x3F800000#32 0#32 0#32 ∧
      maxReal 0x3F800000#32 0#32 0#32 < 2 ^ (1 : ℤ)) ∧
    ((∀ w ∈ [0#32, 0#32, 0#32], expOf w ≤ 253 ∧ 0 ≤ real w) ∧ maxReal 0#32 0#32 0#32 < 1 / 10 ^ 32) := by
  have h0 : expOf 0#32 ≤ 253 ∧ 0 ≤ real 0#32 := ⟨by decide, by rw [real_zero]⟩
  have h1 : expOf 0x3F800000#32 ≤ 253 ∧ 0 ≤ real 0x3F800000#32 := ⟨by decide, by rw [real_one]; norm_num⟩
  refine ⟨⟨?_, ?_⟩, ?_, ?_⟩
  · intro w hw
    simp only [List.mem_cons, List.not_mem_nil, or_false] at hw
    rcases hw with rfl | rfl | rfl
    · exact h1
    · exact h0
    · exact h0
  · rw [maxReal, real_one, real_zero]; norm_num
  · intro w hw
    simp only [List.mem_cons, List.not_mem_nil, or_false] at hw
    rcases hw with rfl | rfl | rfl <;> exact h0
  · rw [maxReal, real_zero]; norm_num

/-- For UnpackThenPackIsIdentity: the two edges of R94. -/
theorem witness_identity :
    (23 ≤ (⟨0#8, 128#8, 0#8, 23#8⟩ : Quad).e.toNat ∧ 128 ≤ (⟨0#8, 128#8, 0#8, 23#8⟩ : Quad).g.toNat) ∧
    ((⟨208#8, 0#8, 0#8, 22#8⟩ : Quad).e.toNat = 22 ∧ 208 ≤ (⟨208#8, 0#8, 0#8, 22#8⟩ : Quad).r.toNat) := by decide

/-- For PlnClrZeroesThePlanes, Img2plnQuantizesTheImage, Pln2imgUnpacksThePlanes, PlaneCommandFrame: a geometry that fits
exactly (4 * 16 = 64 bytes, 3 * 16 = 48 words), one pixel too many, and none. -/
theorem witness_geometry :
    ((machine 4 4 1).Ready ∧ GeomFits (machine 4 4 1).planes false (machine 4 4 1) ∧
      GeomFits (machine 4 4 1).planes true (machine 4 4 1)) ∧
    ((machine 17 1 1).Ready ∧ ¬ GeomFits (machine 17 1 1).planes false (machine 17 1 1) ∧
      ¬ GeomFits (machine 17 1 1).planes true (machine 17 1 1)) ∧
    ((machine 0 4 1).Ready ∧ ¬ GeomFits (machine 0 4 1).planes false (machine 0 4 1)) := by
  refine ⟨⟨ready _ _ _, ⟨by decide, by decide, by decide, nofun⟩, by decide, by decide, by decide, fun _ => by decide⟩,
    ⟨ready _ _ _, fun h => absurd h.2.2.1 (by decide), fun h => absurd h.2.2.1 (by decide)⟩, ready _ _ _, fun h => h.1 rfl⟩

/-- For InsertCommandsStoreOnePixel: the last pixel of an exact fit of each layout, and the pixel after it. -/
theorem witness_pixel :
    (let s := { machine 4 4 0 with px := 3#32, py := 3#32 }
     s.Ready ∧ GeomFits 4 false s ∧ s.px.toNat < s.width.toNat ∧ s.py.toNat < s.height.toNat) ∧
    (let s := { machine 4 8 1 with px := 3#32, py := 7#32 }
     s.Ready ∧ GeomFits 2 false s ∧ s.px.toNat < s.width.toNat ∧ s.py.toNat < s.height.toNat) ∧
    (let s := { machine 4 4 0 with px := 4#32, py := 3#32 }
     s.Ready ∧ ¬ (GeomFits 4 false s ∧ s.px.toNat < s.width.toNat ∧ s.py.toNat < s.height.toNat) ∧
      ¬ (GeomFits 2 false s ∧ s.px.toNat < s.width.toNat ∧ s.py.toNat < s.height.toNat)) :=
  ⟨⟨ready 4 4 0, ⟨by decide, by decide, by decide, nofun⟩, by decide, by decide⟩,
    ⟨ready 4 8 1, ⟨by decide, by decide, by decide, nofun⟩, by decide, by decide⟩,
    ready 4 4 0, fun h => absurd h.2.1 (by decide), fun h => absurd h.2.1 (by decide)⟩

/-- For HdrWrWritesTheHeader and StreamWriterFrame: both geometries of R101's check. -/
theorem witness_hdrWr :
    ((machine 1 1 0).Ready ∧ (machine 1 1 0).width ≠ 0#32 ∧ (machine 1 1 0).height ≠ 0#32) ∧
    ((machine 1 0 0).Ready ∧ (machine 1 0 0).height = 0#32) :=
  ⟨⟨ready _ _ _, by decide, by decide⟩, ready _ _ _, rfl⟩

/-- A dimension line. -/
def dimLine : List Byte := ascii ['-', 'Y', ' ', '1', ' ', '+', 'X', ' ', '8']

/-- The lines of `header8` between the magic and the dimension line. -/
theorem middle_lines : ∀ l ∈ [formatLine, []], IsLine l ∧ ¬ IsDimensionLine l := by
  intro l hl
  simp only [List.mem_cons, List.not_mem_nil, or_false] at hl
  rcases hl with rfl | rfl <;> unfold IsLine IsDimensionLine <;> decide

theorem isHeader_8 : IsHeader header8 1 8 :=
  ⟨[formatLine, []], dimLine, middle_lines, by simp, ⟨[0x31#8], [0x38#8], by decide, by unfold IsNumeral; decide,
    by unfold IsNumeral; decide, by decide, by decide, by decide, by decide⟩, by decide +kernel⟩

/-- For HdrRdReadsTheHeader and StreamReaderFrame. -/
theorem witness_hdrRd :
    (loaded header8 (machine 0 0 0)).Ready ∧ IsHeader header8 1 8 ∧ Next (loaded header8 (machine 0 0 0)) header8 :=
  ⟨⟨rfl, by decide⟩, isHeader_8, next_of_slice rfl (by decide +kernel) (by decide)⟩

/-- For HdrRdRaisesMalformedHeader: a wrong first line; a dimension line before any format line; one that is none after a
format line; a stream that ends in the first line; one that ends in a later line; a cursor past the end. -/
theorem witness_malformed :
    (let s := loaded (bytes [0x23, 0x0A]) (machine 0 0 0)
     s.Ready ∧ MalformedAfter s (lineBytes [bytes [0x23]])) ∧
    (let s := loaded (lineBytes [magicLine, dimLine]) (machine 0 0 0)
     s.Ready ∧ MalformedAfter s (lineBytes (magicLine :: [] ++ [dimLine]))) ∧
    (let s := loaded (lineBytes [magicLine, formatLine, [], ascii ['-', 'Y', ' ']]) (machine 0 0 0)
     s.Ready ∧ MalformedAfter s (lineBytes (magicLine :: [formatLine, []] ++ [ascii ['-', 'Y', ' ']]))) ∧
    (let s := loaded (bytes [0x23]) (machine 0 0 0)
     s.Ready ∧ MalformedAfter s (bytes [0x23])) ∧
    (let s := loaded (lineBytes [magicLine] ++ [0x2D#8]) (machine 0 0 0)
     s.Ready ∧ MalformedAfter s (lineBytes [magicLine] ++ [0x2D#8])) ∧
    ((past (machine 0 0 0)).Ready ∧ MalformedAfter (past (machine 0 0 0)) []) := by
  refine ⟨⟨⟨rfl, by decide⟩, .notMagic _ (by unfold IsLine; decide) (by decide) (next_of_slice rfl (by decide) (by decide))⟩,
    ⟨⟨rfl, by decide⟩, .badDimension _ _ nofun (by unfold IsLine; decide) (by unfold IsDimensionLine; decide)
      (.inl nofun) (next_of_slice rfl (by decide) (by decide))⟩,
    ⟨⟨rfl, by decide⟩, .badDimension _ _ middle_lines (by unfold IsLine; decide) (by unfold IsDimensionLine; decide)
      (.inr ?_) (next_of_slice rfl (by decide +kernel) (by decide))⟩,
    ⟨⟨rfl, by decide⟩, .endsFirst _ (by unfold IsLine; decide) (rest_of_slice rfl (by decide) (by decide))⟩,
    ⟨⟨rfl, by decide⟩, .endsLater [] _ nofun (by unfold IsLine; decide) (rest_of_slice rfl (by decide) (by decide))⟩,
    ⟨rfl, by decide⟩, .endsFirst _ (by unfold IsLine; decide) (rest_of_past (by decide))⟩
  rintro h w ⟨d1, d2, e, _⟩
  have := congrArg List.length e
  simp [ascii] at this

/-- For HeaderFidelity. -/
theorem witness_headerRoom :
    (machine 8 1 0).Ready ∧ (machine 8 1 0).width ≠ 0#32 ∧ (machine 8 1 0).height ≠ 0#32 ∧
    (machine 8 1 0).spos.toNat +
      (headerBytes (machine 8 1 0).height.toNat (machine 8 1 0).width.toNat).length ≤
        (machine 8 1 0).cfg.strBytes.toNat := by
  refine ⟨ready _ _ _, by decide, by decide, ?_⟩
  simp [headerBytes, ascii, dec, machine, smallConfig, State.resetWith]

/-- For RleEncWritesThePlaneRow, EncScanWritesTheScanline, RleDecIsItsTokens, DecScanIsItsTokens: the last row and plane,
and the row and the plane after them. -/
theorem witness_row_checks :
    (let s := { machine 4 2 0 with ycnt := 1#32 }
     s.Ready ∧ PlaneRowChecks 1#2 s ∧ ScanChecks s) ∧
    ((machine 4 2 0).Ready ∧ ¬ PlaneRowChecks 2#2 (machine 4 2 0)) ∧
    (let s := { machine 4 2 0 with ycnt := 2#32 }
     s.Ready ∧ ¬ PlaneRowChecks 1#2 s ∧ ¬ ScanChecks s) := by
  have g : GeomFits 2 false (machine 4 2 0) := ⟨by decide, by decide, by decide, nofun⟩
  refine ⟨⟨ready 4 2 0, ⟨g, by decide, by decide⟩, g, by decide⟩, ⟨ready 4 2 0, fun h => absurd h.2.1 (by decide)⟩,
    ready 4 2 0, fun h => absurd h.2.2 (by decide), fun h => absurd h.2 (by decide)⟩

theorem headerLength_8 : (headerBytes 1 8).length = 41 := by
  simp [headerBytes, ascii, dec]

/-- For EncImageWritesTheFile: 8 by 1, with room for the largest file of that size; with room for no header byte; with room
for exactly the header, so that scanline 0 fails. -/
theorem witness_image :
    (machine 8 1 0).Ready ∧ GeomFits (machine 8 1 0).planes true (machine 8 1 0) ∧
    (machine 8 1 0).spos.toNat + 41 + (4 + 8 * 8) ≤ (machine 8 1 0).cfg.strBytes.toNat ∧
    (let s := { machine 8 1 0 with spos := 128#32 }
     s.Ready ∧ GeomFits s.planes true s ∧
      s.cfg.strBytes.toNat < s.spos.toNat + (headerBytes s.height.toNat s.width.toNat).length) ∧
    (let s := { machine 8 1 0 with spos := 87#32 }
     s.Ready ∧ GeomFits s.planes true s ∧ 0 < s.height.toNat ∧
      ∀ u : State, u.width = s.width →
        s.spos.toNat + (headerBytes 1 8 ++ (List.range 0).flatMap (scanBytes u)).length ≤ s.cfg.strBytes.toNat ∧
        s.cfg.strBytes.toNat < s.spos.toNat + (headerBytes 1 8 ++ (List.range 1).flatMap (scanBytes u)).length) := by
  have g : GeomFits 2 true (machine 8 1 0) := ⟨by decide, by decide, by decide, fun _ => by decide⟩
  refine ⟨ready _ _ _, g, by decide, ⟨⟨rfl, by decide⟩, g, ?_⟩, ⟨rfl, by decide⟩, g, by decide, fun u hu => ?_⟩
  · show 128 < 128 + (headerBytes 1 8).length
    rw [headerLength_8]; decide
  · have w : u.width.toNat = 8 := by rw [hu]; rfl
    rw [List.length_append, List.length_append, headerLength_8]
    refine ⟨show 87 + (41 + 0) ≤ 128 by decide, ?_⟩
    show 128 < 87 + (41 + ([0].flatMap (scanBytes u)).length)
    simp [scanBytes, rleWidth, w, marker]
    omega

/-- 1.0 in each of the first eight cells of `IMG`. -/
def ones (s : State) : State := image (List.replicate 8 0x3F800000#32) s

/-- For ImageRoundTrip: gray images of width 8 (RLE) and 7 (flat) whose ENC_IMAGE completes; at the first width where the
marker matters, an image with no false marker. -/
theorem witness_round_trip :
    (let s := ones (machine 8 1 0)
     s.Ready ∧ GeomFits s.planes true s ∧ ∃ t, exec .encImage s = .next t ∧ t.err = 0#4) ∧
    (let s := ones (machine 7 1 0)
     s.Ready ∧ GeomFits s.planes true s ∧ ∃ t, exec .encImage s = .next t ∧ t.err = 0#4) ∧
    (let s := { ones (machine 32768 1 0) with
      cfg := { smallConfig with imgWords := 32768, plnBytes := 65536, strBytes := 131200#32 } }
     s.Ready ∧ GeomFits s.planes true s ∧ 32768 ≤ s.width.toNat ∧ NoFalseMarker s) := by
  refine ⟨⟨⟨rfl, by decide⟩, ⟨by decide, by decide, by decide, fun _ => by decide⟩, ?_⟩,
    ⟨⟨rfl, by decide⟩, ⟨by decide, by decide, by decide, fun _ => by decide⟩, ?_⟩,
    ⟨rfl, by decide⟩, ⟨by decide, by decide, by decide, fun _ => by decide⟩, by decide, ?_⟩
  · have h : holds (exec .encImage (ones (machine 8 1 0))) (fun t => t.err == 0#4) = true := by decide +kernel
    obtain ⟨t, e, ht⟩ := next_of_holds h
    exact ⟨t, e, eq_of_beq ht⟩
  · have h : holds (exec .encImage (ones (machine 7 1 0))) (fun t => t.err == 0#4) = true := by decide +kernel
    obtain ⟨t, e, ht⟩ := next_of_holds h
    exact ⟨t, e, eq_of_beq ht⟩
  · intro y hy
    have h0 : y = 0 := Nat.lt_one_iff.mp hy
    subst h0
    decide +kernel

/-- A row of four bytes: a repeat of one and a dump of three. -/
def row4 : List Run := [.rep 1 5#8, .dump [6#8, 7#8, 8#8]]

theorem row4_readable : ∀ r ∈ row4, r.Readable := by
  intro r hr
  simp only [row4, List.mem_cons, List.not_mem_nil, or_false] at hr
  rcases hr with rfl | rfl <;> unfold Run.Readable <;> decide

/-- For RleDecStoresReadableRuns. -/
theorem witness_runs :
    let s := loaded (bytes [0x81, 5, 3, 6, 7, 8]) (machine 4 1 0)
    s.Ready ∧ PlaneRowChecks 1#2 s ∧ (∀ r ∈ row4, r.Readable) ∧ (runRow row4).length = s.width.toNat ∧
    Next s (runBytes row4) :=
  ⟨⟨rfl, by decide⟩, ⟨⟨by decide, by decide, by decide, nofun⟩, by decide, by decide⟩, row4_readable, by decide,
    next_of_slice rfl (by decide) (by decide)⟩

/-- For RleDecFaultsInTheRow: after the readable run `81 05` in a row of 4, control 0; a run of 4 for a rest of 3; a stream
that ends at a control byte; before a value; inside a dump; and a cursor past the end at the start of the row. -/
theorem witness_row_faults :
    let m := fun ns => loaded (bytes ns) (machine 4 1 0)
    let rs : List Run := [.rep 1 5#8]
    (∀ ns ∈ [[0x81, 5, 0], [0x81, 5, 4], [0x81, 5], [0x81, 5, 0x83], [0x81, 5, 3, 6]],
      (m ns).decoding = none ∧ (m ns).err = 0#4 ∧ (runRow rs).length < (m ns).width.toNat) ∧
    PlaneRowChecks 1#2 (machine 4 1 0) ∧ (∀ r ∈ rs, r.Readable) ∧ 4 - (runRow rs).length = 3 ∧
    (RowStop 3 .formatFault [0#8] [] ∧ HoldsUpTo .formatFault (m [0x81, 5, 0]) (runBytes rs ++ [0#8])) ∧
    (RowStop 3 .formatFault [4#8] [] ∧ HoldsUpTo .formatFault (m [0x81, 5, 4]) (runBytes rs ++ [4#8])) ∧
    (RowStop 3 .truncatedData [] [] ∧ HoldsUpTo .truncatedData (m [0x81, 5]) (runBytes rs ++ [])) ∧
    (RowStop 3 .truncatedData [0x83#8] [] ∧ HoldsUpTo .truncatedData (m [0x81, 5, 0x83]) (runBytes rs ++ [0x83#8])) ∧
    (RowStop 3 .truncatedData [3#8, 6#8] [6#8] ∧
      HoldsUpTo .truncatedData (m [0x81, 5, 3, 6]) (runBytes rs ++ [3#8, 6#8])) ∧
    (RowStop 4 .truncatedData [] [] ∧ HoldsUpTo .truncatedData (past (machine 4 1 0)) (runBytes [] ++ [])) := by
  intro m rs
  refine ⟨by decide, ⟨⟨by decide, by decide, by decide, nofun⟩, by decide, by decide⟩, ?_, by decide,
    ⟨.controlZero, next_of_slice rfl (by decide) (by decide)⟩,
    ⟨.overlong _ (by decide), next_of_slice rfl (by decide) (by decide)⟩,
    ⟨.atControl, rest_of_slice rfl (by decide) (by decide)⟩,
    ⟨.atValue _ (by decide) (by decide), rest_of_slice rfl (by decide) (by decide)⟩,
    ⟨.inDump _ _ (by decide) (by decide) (by decide), rest_of_slice rfl (by decide) (by decide)⟩,
    .atControl, rest_of_past (by decide)⟩
  intro r hr
  simp only [rs, List.mem_cons, List.not_mem_nil, or_false] at hr
  subst hr
  unfold Run.Readable
  decide

/-- For MarkerTestReadsTheWidth: the first width no marker names. -/
theorem witness_wide : 65536 ≤ (machine 65536 1 0).width.toNat := by decide

/-- For DecScanStoresTheScanline: a readable scanline of each form, in the stream. -/
theorem witness_scans :
    (let s := loaded (bytes [2, 2, 0, 1, 0x81, 5, 0x81, 5, 0x81, 5, 0x81, 5]) (machine 1 1 0)
     let sc := Scan.rle [.rep 1 5#8] [.rep 1 5#8] [.rep 1 5#8] [.rep 1 5#8]
     s.Ready ∧ ScanChecks s ∧ sc.Readable s.width.toNat ∧ Next s (sc.bytes s.width.toNat)) ∧
    (let s := loaded (bytes [2, 2, 0, 2]) (machine 1 1 0)
     let sc := Scan.flat [⟨2#8, 2#8, 0#8, 2#8⟩]
     s.Ready ∧ ScanChecks s ∧ sc.Readable s.width.toNat ∧ Next s (sc.bytes s.width.toNat)) := by
  refine ⟨⟨⟨rfl, by decide⟩, ⟨⟨by decide, by decide, by decide, nofun⟩, by decide⟩, ⟨by decide, ?_⟩,
    next_of_slice rfl (by decide) (by decide)⟩, ⟨rfl, by decide⟩, ⟨⟨by decide, by decide, by decide, nofun⟩, by decide⟩,
    ⟨by decide, ?_⟩, next_of_slice rfl (by decide) (by decide)⟩
  · intro rs hrs
    have e : rs = [.rep 1 5#8] := by simpa using hrs
    subst e
    refine ⟨?_, by decide⟩
    intro r hr
    simp only [List.mem_cons, List.not_mem_nil, or_false] at hr
    subst hr
    unfold Run.Readable
    decide
  · intro q hq
    have e : (⟨2#8, 2#8, 0#8, 2#8⟩ : Quad) = q := by simpa using hq
    subst e
    decide

/-- For DecScanStoresTheScanline: a flat scanline that breaks off in its one quad, and none at all past the end of the
stream; an RLE scanline with control byte 0 in its second plane row. -/
theorem witness_scan_stops :
    (let s := loaded (bytes [2, 2, 0]) (machine 1 1 0)
     s.Ready ∧ ScanChecks s ∧
      ScanStop s.width.toNat .truncatedData [2#8, 2#8, 0#8] (fun j x => [2#8, 2#8, 0#8][4 * x + j]?) ∧
      HoldsUpTo .truncatedData s [2#8, 2#8, 0#8]) ∧
    (let s := past (machine 1 1 0)
     s.Ready ∧ ScanChecks s ∧
      ScanStop s.width.toNat .truncatedData [] (fun j x => ([] : List Byte)[4 * x + j]?) ∧ HoldsUpTo .truncatedData s []) ∧
    (let s := loaded (bytes [2, 2, 0, 1, 0x81, 5, 0]) (machine 1 1 0)
     let bs := marker s.width.toNat ++ [[Run.rep 1 5#8]].flatMap runBytes ++ runBytes [] ++ [0#8]
     s.Ready ∧ ScanChecks s ∧ (∃ got, ScanStop s.width.toNat .formatFault bs got) ∧ HoldsUpTo .formatFault s bs) := by
  have c : ScanChecks (machine 1 1 0) := ⟨⟨by decide, by decide, by decide, nofun⟩, by decide⟩
  refine ⟨⟨⟨rfl, by decide⟩, c, .flat _ (by decide) nofun, rest_of_slice rfl (by decide) (by decide)⟩,
    ⟨⟨rfl, by decide⟩, c, .flat _ (by decide) nofun, rest_of_past (by decide)⟩,
    ⟨rfl, by decide⟩, c, ⟨_, .rle [[.rep 1 5#8]] [] _ _ [] (by decide) (by decide) ?_ nofun (by decide) .controlZero⟩,
    next_of_slice rfl (by decide) (by decide)⟩
  intro rs hrs
  have e : rs = [.rep 1 5#8] := by simpa using hrs
  subst e
  refine ⟨?_, by decide⟩
  intro r hr
  simp only [List.mem_cons, List.not_mem_nil, or_false] at hr
  subst hr
  unfold Run.Readable
  decide

/-- The eight quads of a flat scanline of width 8. -/
def quads8 : List Quad := List.replicate 8 ⟨0x80#8, 0x80#8, 0x80#8, 0x81#8⟩

/-- For DecImageReadsTheFile: a file of one flat scanline of width 8 in gray, and a header whose image does not fit. -/
theorem witness_file :
    (let s := loaded (header8 ++ (Scan.flat quads8).bytes 8) (machine 0 0 0)
     s.Ready ∧ IsHeader header8 1 8 ∧
      GeomFits s.planes true { s with height := BitVec.ofNat 32 1, width := BitVec.ofNat 32 8 } ∧
      [Scan.flat quads8].length = 1 ∧ [Scan.flat quads8].getLast? = some (.flat quads8) ∧
      (∀ sc ∈ [Scan.flat quads8], sc.Readable 8) ∧
      Next s (header8 ++ [Scan.flat quads8].flatMap (Scan.bytes 8))) ∧
    (let s := { loaded header8 (machine 0 0 0) with cfg := { smallConfig with plnBytes := 15 } }
     s.Ready ∧ ¬ GeomFits s.planes true { s with height := BitVec.ofNat 32 1, width := BitVec.ofNat 32 8 } ∧
      Next s header8) := by
  refine ⟨⟨⟨rfl, by decide⟩, isHeader_8, ⟨by decide, by decide, by decide, fun _ => by decide⟩, rfl, rfl, ?_,
    next_of_slice rfl (by decide +kernel) (by decide +kernel)⟩, ⟨rfl, by decide⟩, fun h => absurd h.2.2.1 (by decide),
    next_of_slice rfl (by decide +kernel) (by decide)⟩
  intro sc hsc
  have e : sc = .flat quads8 := by simpa using hsc
  subst e
  refine ⟨by decide, fun q hq => ?_⟩
  have e : (⟨0x80#8, 0x80#8, 0x80#8, 0x81#8⟩ : Quad) = q := by simpa [quads8] using hq
  subst e
  decide

/-- For DecImageFaultsInAScanline: the stream ends after the header; control byte 0 in the first plane row. -/
theorem witness_file_stops :
    (let s := loaded header8 (machine 0 0 0)
     s.Ready ∧ IsHeader header8 1 8 ∧
      GeomFits s.planes true { s with height := BitVec.ofNat 32 1, width := BitVec.ofNat 32 8 } ∧
      ScanStop 8 .truncatedData [] (fun j x => ([] : List Byte)[4 * x + j]?) ∧
      HoldsUpTo .truncatedData s (header8 ++ ([] : List Scan).flatMap (Scan.bytes 8) ++ [])) ∧
    (let s := loaded (header8 ++ bytes [2, 2, 0, 8, 0]) (machine 0 0 0)
     let bs := marker 8 ++ ([] : List (List Run)).flatMap runBytes ++ runBytes [] ++ [0#8]
     s.Ready ∧ IsHeader header8 1 8 ∧ (∃ got, ScanStop 8 .formatFault bs got) ∧
      HoldsUpTo .formatFault s (header8 ++ ([] : List Scan).flatMap (Scan.bytes 8) ++ bs)) :=
  ⟨⟨⟨rfl, by decide⟩, isHeader_8, ⟨by decide, by decide, by decide, fun _ => by decide⟩, .flat _ (by decide) nofun,
    rest_of_slice rfl (by decide +kernel) (by decide)⟩,
    ⟨rfl, by decide⟩, isHeader_8, ⟨_, .rle [] [] _ _ [] (by decide) (by decide) nofun nofun (by decide) .controlZero⟩,
    next_of_slice rfl (by decide +kernel) (by decide)⟩

/-- For FaultedDecImageKeepsTheImage and InstructionRaisesOnlyItsFaults: DEC_IMAGE of the empty stream. -/
theorem witness_faulted_decImage :
    (machine 0 0 0).Ready ∧
    exec .decImage (machine 0 0 0) = .next ((machine 0 0 0).enterFault .malformedHeader 0x42000000#32) ∧
    ((machine 0 0 0).enterFault .malformedHeader 0x42000000#32).err ≠ 0#4 := ⟨⟨rfl, by decide⟩, rfl, by decide⟩

/-- For PlaneRowRoundTrip: a row of four known bytes, with room for its runs. -/
theorem witness_rowRoom :
    let s := planes (bytes [5, 6, 7, 8]) (machine 4 1 0)
    s.Ready ∧ PlaneRowChecks 0#2 s ∧
    s.spos.toNat + (rleEncodeRow (planeRow s 0 s.ycnt.toNat)).length ≤ s.cfg.strBytes.toNat ∧
    (1#2 : BitVec 2).toNat < s.planes := by
  refine ⟨⟨rfl, by decide⟩, ⟨⟨by decide, by decide, by decide, nofun⟩, by decide, by decide⟩, by decide +kernel, by decide⟩

/-- For RunTokensProduceTheirBytes: a row of 4 with 3 to go; a dump and a repeat of exactly 3 with their data; a run of 4;
a dump of 3 with two literals left, and a repeat with no value; a row of 128 for the dump of 128, with its data and with
none; a token outside a row. -/
theorem witness_run_tokens :
    (let s := inRow 1 (loaded (bytes [7, 8, 9]) (machine 4 1 0))
     s.decodable ⟨.rleDec 0#2, .row (some 0) 1 []⟩ = true ∧ s.width.toNat - 1 = 3 ∧ Next s [7#8, 8#8, 9#8] ∧ Next s [7#8] ∧
      s.width.toNat - 1 < (4#7 : BitVec 7).toNat ∧ s.width.toNat - 1 < 128) ∧
    (let s := inRow 1 (loaded (bytes [7, 8]) (machine 4 1 0))
     s.decodable ⟨.rleDec 0#2, .row (some 0) 1 []⟩ = true ∧ Rest s [7#8, 8#8]) ∧
    (let s := inRow 1 (past (machine 4 1 0))
     s.decodable ⟨.rleDec 0#2, .row (some 0) 1 []⟩ = true ∧ Rest s []) ∧
    (let s := (loaded (List.replicate 128 7#8)
        { machine 128 1 0 with cfg := { smallConfig with plnBytes := 256 } }).decodeAt .decScan (.row none 0 [])
     s.decodable ⟨.decScan, .row none 0 []⟩ = true ∧ 128 ≤ s.width.toNat ∧ Next s (List.replicate 128 7#8)) ∧
    (let s := (past { machine 128 1 0 with cfg := { smallConfig with plnBytes := 256 } }).decodeAt .decScan (.row none 0 [])
     s.decodable ⟨.decScan, .row none 0 []⟩ = true ∧ 128 ≤ s.width.toNat ∧ Rest s []) ∧
    ((tokenLength .rleZero).isSome = true ∧ ∀ c dst done rest, (machine 4 1 0).decoding ≠ some ⟨c, .row dst done rest⟩) :=
  ⟨⟨by decide, by decide, next_of_slice rfl (by decide) (by decide), next_of_slice rfl (by decide) (by decide), by decide,
    by decide⟩, ⟨by decide, rest_of_slice rfl (by decide) (by decide)⟩, ⟨by decide, rest_of_past (by decide)⟩,
    ⟨by decide, by decide, next_of_slice rfl (by decide +kernel) (by decide +kernel)⟩,
    ⟨by decide, by decide, rest_of_past (by decide)⟩, by decide, nofun⟩

/-- For MarkerAndQuadTokens: at a head, the marker of the width and of another; a quad at a head and at the last pixel of
DEC_SCAN, of a scanline of DEC_IMAGE that is not the last, and of the last; and outside any scanline. -/
theorem witness_quad_tokens :
    (let s := (machine 4 1 1).decodeAt .decScan .head
     s.decoding = some ⟨.decScan, .head⟩ ∧ s.decodable ⟨.decScan, .head⟩ = true ∧
      (0#8 : Byte).toNat * 256 + (4#8 : Byte).toNat = s.width.toNat ∧
      (4#8 : Byte).toNat * 256 + (0#8 : Byte).toNat ≠ s.width.toNat ∧ 0 + 1 < s.width.toNat) ∧
    (let s := (machine 4 1 1).decodeAt .decScan (.flat 3)
     s.decoding = some ⟨.decScan, .flat 3⟩ ∧ s.decodable ⟨.decScan, .flat 3⟩ = true ∧ 3 + 1 = s.width.toNat) ∧
    (let s := (machine 4 2 1).decodeAt .decImage (.flat 3)
     s.decodable ⟨.decImage, .flat 3⟩ = true ∧ 3 + 1 = s.width.toNat ∧ s.ycnt.toNat + 1 < s.height.toNat) ∧
    (let s := { machine 4 2 1 with ycnt := 1#32 }.decodeAt .decImage (.flat 3)
     s.decodable ⟨.decImage, .flat 3⟩ = true ∧ 3 + 1 = s.width.toNat ∧ ¬ s.ycnt.toNat + 1 < s.height.toNat) ∧
    ((∀ c, (machine 4 1 1).decoding ≠ some ⟨c, .head⟩) ∧ ∀ c x, (machine 4 1 1).decoding ≠ some ⟨c, .flat x⟩) :=
  ⟨by decide, by decide, by decide, by decide, nofun, nofun⟩

/-- For RegisterCommandFrame, PlaneCommandFrame, StreamWriterFrame, StreamReaderFrame, TokenFrame,
InstructionsKeepHostAndParameters: every instruction these speak of answers a next state. -/
theorem witness_next_states :
    [Instr.nop, .f2rgbe, .rgbe2f, .f2re, .re2f, .plnClr, .insRgbe, .insRe, .img2pln, .pln2img, .hdrWr, .hdrRd, .rleEnc 0#2,
      .rleEnc 1#2, .encScan, .encImage, .rleDec 0#2, .decScan, .decImage, .srst].all
      (fun i => holds (exec i (planes (bytes [1, 2, 3, 4]) (image [1#32, 2#32] (machine 2 1 0)))) fun _ => true) = true ∧
    [Instr.rleZero, .rleDump 2#7, .rleDump128, .rleRepeat1, .rleRepeat 2#7].all
      (fun i => holds (exec i (inRow 1 (loaded (bytes [8, 9]) (machine 4 1 0)))) fun _ => true) = true ∧
    [Instr.scanMarker 0#8 4#8, .rgbeQuad 1#8 2#8 3#8 4#8].all
      (fun i => holds (exec i ((machine 4 1 0).decodeAt .decScan .head)) fun _ => true) = true := by decide +kernel

/-- For StepKeepsInvariant, StepKeepsCellsInside, StepNeverStops, ErrIsStickyUntilReset: a faulted machine with a listed
cell in each memory and a program; its step answers a next state. -/
theorem witness_invariant :
    let s := { faulted (planes [1#8] (image [1#32] (loaded [2#8] (machine 4 4 1)))) with program := [.hardReset] }
    s.Inv ∧ s.CellsInside ∧ s.err ≠ 0#4 ∧ step s = .next { s.hardReset with pc := 1 } := by
  refine ⟨⟨?_, ?_, ?_, ?_, ?_, ?_, ?_, ?_, rfl, ?_⟩, ⟨?_, ?_, ?_⟩, ?_, rfl⟩ <;> decide

/-- For HostRegisterPort and HostMemoryPort: no command in progress; the last cell of each memory, and the first address
that has none. -/
theorem witness_addresses :
    (machine 4 4 1).decoding = none ∧ 0x0E ≤ 0x0E ∧ 0x0F ≤ 0x0F ∧
    47 < smallConfig.imgWords ∧ smallConfig.imgWords ≤ 48 ∧ 63 < smallConfig.plnBytes ∧ smallConfig.plnBytes ≤ 64 ∧
    127 < smallConfig.strBytes.toNat ∧ smallConfig.strBytes.toNat ≤ 128 := by decide

end Sys2Proof.Tests
end

section
/-! Every command but SRST is one frame around a piece of pseudocode, and that piece is built from nine primitive writes:
what the nine keep, every command keeps. Said once for any relation between the state before and the state after. -/

namespace Sys2Proof.Machine

open Sys2Proof.Spec

/-! ### What the primitive writes keep, every command keeps -/

/-- The relation between the state before and the state after holds of every primitive write of a command's pseudocode and
can be chained. -/
structure ClosedUnderWrites (R : State → State → Prop) : Prop extends Chains R where
  getByte : ∀ f, Op.Keeps R (getByte f)
  putByte : ∀ b, Op.Keeps R (putByte b)
  writeImg : ∀ a v s, R s (s.writeImg a v)
  writePln : ∀ a v s, R s (s.writePln a v)
  setQuad : ∀ q s, R s (s.setQuad q)
  setFloats : ∀ v0 v1 v2 s, R s (s.setFloats v0 v1 v2)
  setDimensions : ∀ h w s, R s (s.setDimensions h w)
  firstScan : ∀ s, R s s.firstScan
  endScan : ∀ b s, R s (s.endScan b)

section Closed

variable {R : State → State → Prop} (c : ClosedUnderWrites R)

/-- A check passes or raises, and changes nothing, so it keeps every such relation. -/
theorem Chains.keeps_check (h : Chains R) {x : Op Unit} {p : State → Prop} [DecidablePred p] {f : FaultCode}
    (hx : ∀ s, x s = if p s then .ok () s else .error f s) : Op.Keeps R x := by
  intro s
  rw [Op.final, hx]
  by_cases hp : p s
  · rw [if_pos hp]; exact h.refl s
  · rw [if_neg hp]; exact h.refl s

namespace ClosedUnderWrites

include c

/-! #### Plane buffer -/

theorem checkGeom (planes : State → Nat) (useImg : Bool) : Op.Keeps R (checkGeom planes useImg) :=
  c.keeps_check (checkGeom_apply planes useImg)

theorem checkPixel : Op.Keeps R checkPixel := c.keeps_check checkPixel_apply

theorem storePair (p : Nat) (q : Quad) (s : State) : R s (s.storePair p q) :=
  c.trans _ _ _ (c.writePln _ _ _) (c.writePln _ _ _)

theorem storeQuad (p : Nat) (q : Quad) (s : State) : R s (s.storeQuad p q) :=
  c.trans _ _ _ (c.trans _ _ _ (c.trans _ _ _ (c.writePln _ _ _) (c.writePln _ _ _)) (c.writePln _ _ _))
    (c.writePln _ _ _)

theorem quantizePixel (p : Nat) (s : State) : R s (s.quantizePixel p) := by
  unfold State.quantizePixel
  split
  · exact c.storeQuad _ _ _
  · exact c.storePair _ _ _

theorem unpackPixel (p : Nat) (s : State) : R s (s.unpackPixel p) := by
  unfold State.unpackPixel
  split
  · exact c.trans _ _ _ (c.trans _ _ _ (c.writeImg _ _ _) (c.writeImg _ _ _)) (c.writeImg _ _ _)
  · exact c.writeImg _ _ _

/-- A loop of plain writes. -/
theorem updates {g : Nat → State → State} (h : ∀ i s, R s (g i s)) (n i : Nat) :
    Op.Keeps R (forUp (fun j => update (g j)) n i) :=
  Op.keeps_forUp c.toChains (fun j => Op.keeps_update (h j)) n i

theorem quantizeImage : Op.Keeps R quantizeImage := Op.keeps_reading fun n => c.updates c.quantizePixel n 0

theorem unpackImage : Op.Keeps R unpackImage := Op.keeps_reading fun n => c.updates c.unpackPixel n 0

/-! #### Header Codec -/

theorem putBytes (bs : List Byte) : Op.Keeps R (putBytes bs) := by
  induction bs with
  | nil => exact Op.keeps_pure c.toChains ()
  | cons b bs ih => exact Op.keeps_bind c.toChains (c.putByte b) fun _ => ih

theorem writeHeader : Op.Keeps R writeHeader := Op.keeps_reading c.putBytes

theorem readLineFrom (n : Nat) (acc : List Byte) : Op.Keeps R (readLineFrom n acc) := by
  induction n generalizing acc with
  | zero => exact Op.keeps_raise c.toChains _
  | succ n ih =>
    refine Op.keeps_bind c.toChains (c.getByte _) fun b => ?_
    split
    · exact Op.keeps_pure c.toChains _
    · exact ih _

theorem readLine : Op.Keeps R readLine := Op.keeps_reading fun n => c.readLineFrom n []

theorem takeDimensions (seen : Bool) (line : List Byte) : Op.Keeps R (takeDimensions seen line) := by
  unfold Machine.takeDimensions
  split
  · split
    · exact Op.keeps_update (c.setDimensions _ _)
    · exact Op.keeps_raise c.toChains _
  · exact Op.keeps_raise c.toChains _

theorem readFields (n : Nat) (seen : Bool) : Op.Keeps R (readFields n seen) := by
  induction n generalizing seen with
  | zero => exact Op.keeps_raise c.toChains _
  | succ n ih =>
    refine Op.keeps_bind c.toChains c.readLine fun line => ?_
    split
    · exact ih _
    · split
      · exact c.takeDimensions _ _
      · exact ih _

theorem readHeader : Op.Keeps R readHeader :=
  Op.keeps_bind c.toChains c.readLine fun _ =>
    Op.keeps_bind c.toChains (Op.keeps_raiseIf c.toChains _ _) fun _ => Op.keeps_reading fun n => c.readFields n false

/-! #### Scanline Encoder -/

theorem checkRow : Op.Keeps R checkRow := c.keeps_check checkRow_apply

theorem checkPlaneRow (k : BitVec 2) : Op.Keeps R (checkPlaneRow k) := c.keeps_check (checkPlaneRow_apply k)

theorem encodePlaneRow (k y : Nat) : Op.Keeps R (encodePlaneRow k y) := Op.keeps_reading c.putBytes

theorem encodePlaneRows (y : Nat) (ks : List Nat) : Op.Keeps R (encodePlaneRows y ks) := by
  induction ks with
  | nil => exact Op.keeps_pure c.toChains ()
  | cons k ks ih => exact Op.keeps_bind c.toChains (c.encodePlaneRow k y) fun _ => ih

theorem encodeScanAs (b : Bool) (y : Nat) : Op.Keeps R (encodeScanAs b y) := by
  cases b with
  | true =>
    exact Op.keeps_bind c.toChains (Op.keeps_reading c.putBytes) fun _ => Op.keeps_reading (c.encodePlaneRows y)
  | false =>
    exact Op.keeps_reading (k := fun w => forUp _ w 0) fun w =>
      Op.keeps_forUp c.toChains (fun _ => Op.keeps_reading c.putBytes) w 0

theorem encodeScan : Op.Keeps R encodeScan :=
  Op.keeps_reading fun b => Op.keeps_bind c.toChains (c.encodeScanAs b.1 b.2) fun _ => Op.keeps_update (c.endScan b.1)

/-! #### Scanline Decoder -/

theorem storeAt (dst : Option Nat) (i : Nat) (v : Byte) : Op.Keeps R (storeAt dst i v) := by
  cases dst with
  | none => exact Op.keeps_pure c.toChains ()
  | some a => exact Op.keeps_update (c.writePln _ _)

theorem checkRun (done n : Nat) : Op.Keeps R (checkRun done n) := c.keeps_check (checkRun_apply done n)

theorem controlRun (b : Byte) (dst : Option Nat) (done : Nat) : Op.Keeps R (controlRun b dst done) := by
  unfold Machine.controlRun
  split
  · exact Op.keeps_raise c.toChains _
  · split
    · exact Op.keeps_bind c.toChains (c.checkRun _ _) fun _ => Op.keeps_bind c.toChains (c.getByte _) fun v =>
        Op.keeps_forUp c.toChains (fun t => c.storeAt dst (done + t) v) _ 0
    · exact Op.keeps_bind c.toChains (c.checkRun _ _) fun _ => Op.keeps_forUp c.toChains
        (fun t => Op.keeps_bind c.toChains (c.getByte _) fun v => c.storeAt dst (done + t) v) _ 0

theorem decodeRun (dst : Option Nat) (done : Nat) : Op.Keeps R (decodeRun dst done) :=
  Op.keeps_bind c.toChains (c.getByte _) fun b =>
    Op.keeps_bind c.toChains (c.controlRun b dst done) fun _ => Op.keeps_pure c.toChains _

theorem decodeRuns (dst : Option Nat) (n done : Nat) : Op.Keeps R (decodeRuns dst n done) := by
  induction n generalizing done with
  | zero => exact Op.keeps_pure c.toChains ()
  | succ n ih =>
    refine Op.keeps_reading fun more => ?_
    cases more with
    | true => exact Op.keeps_bind c.toChains (c.decodeRun dst done) fun m => ih (done + m)
    | false => exact Op.keeps_pure c.toChains ()

theorem rleDecodeRow (dst : Option Nat) : Op.Keeps R (rleDecodeRow dst) :=
  Op.keeps_reading fun w => c.decodeRuns dst w 0

theorem decodeRows (ds : List (Option Nat)) : Op.Keeps R (decodeRows ds) := by
  induction ds with
  | nil => exact Op.keeps_pure c.toChains ()
  | cons d ds ih => exact Op.keeps_bind c.toChains (c.rleDecodeRow d) fun _ => ih

theorem flatPixel (x : Nat) (ds : List (Option Nat)) : Op.Keeps R (flatPixel x ds) := by
  induction ds with
  | nil => exact Op.keeps_pure c.toChains ()
  | cons d ds ih =>
    exact Op.keeps_bind c.toChains (c.getByte _) fun v => Op.keeps_bind c.toChains (c.storeAt d x v) fun _ => ih

theorem skipMarker : Op.Keeps R skipMarker :=
  Op.keeps_times c.toChains (Op.keeps_bind c.toChains (c.getByte _) fun _ => Op.keeps_pure c.toChains ()) 4

theorem decodeScanAs (b : Bool) (ds : List (Option Nat)) : Op.Keeps R (decodeScanAs b ds) := by
  cases b with
  | true => exact Op.keeps_bind c.toChains c.skipMarker fun _ => c.decodeRows ds
  | false =>
    exact Op.keeps_reading (k := fun w => forUp _ w 0) fun w =>
      Op.keeps_forUp c.toChains (fun x => c.flatPixel x ds) w 0

theorem decodeScan : Op.Keeps R decodeScan :=
  Op.keeps_reading fun b => Op.keeps_bind c.toChains (c.decodeScanAs b.2 b.1) fun _ => Op.keeps_update (c.endScan b.2)

end ClosedUnderWrites

end Closed

/-! ### Every command is one frame around such a piece of pseudocode -/

/-- Instruction `i` is the frame of a command (R150, R165) around pseudocode that is built from the primitive writes. -/
def IsFramed (i : Instr) : Prop :=
  ∃ body : Op Unit, (∀ s, exec i s = command i.word body s) ∧ ∀ R, ClosedUnderWrites R → Op.Keeps R body

/-- Every command but SRST, which runs in the fault state too (R152), is framed. -/
theorem command_isFramed {i : Instr} (h : isCommand i = true) (hs : i ≠ .srst) : IsFramed i := by
  cases i with
  | srst => exact absurd rfl hs
  | nop => exact ⟨_, fun _ => rfl, fun R c => Op.keeps_pure c.toChains ()⟩
  | f2rgbe => exact ⟨_, fun _ => rfl, fun R c => Op.keeps_update fun s => c.setQuad _ s⟩
  | rgbe2f => exact ⟨_, fun _ => rfl, fun R c => Op.keeps_update fun s => c.setFloats _ _ _ s⟩
  | f2re => exact ⟨_, fun _ => rfl, fun R c => Op.keeps_update fun s => c.setQuad _ s⟩
  | re2f => exact ⟨_, fun _ => rfl, fun R c => Op.keeps_update fun s => c.setFloats _ _ _ s⟩
  | plnClr =>
    exact ⟨_, fun _ => rfl, fun R c => Op.keeps_bind c.toChains (c.checkGeom _ _) fun _ =>
      Op.keeps_reading fun n => c.updates (fun _ => c.writePln _ _) n 0⟩
  | insRgbe =>
    exact ⟨_, fun _ => rfl, fun R c => Op.keeps_bind c.toChains (c.checkGeom _ _) fun _ =>
      Op.keeps_bind c.toChains c.checkPixel fun _ =>
        Op.keeps_update fun s => c.trans _ _ _ (c.setQuad _ s) (c.storeQuad _ _ _)⟩
  | insRe =>
    exact ⟨_, fun _ => rfl, fun R c => Op.keeps_bind c.toChains (c.checkGeom _ _) fun _ =>
      Op.keeps_bind c.toChains c.checkPixel fun _ =>
        Op.keeps_update fun s => c.trans _ _ _ (c.setQuad _ s) (c.storePair _ _ _)⟩
  | img2pln =>
    exact ⟨_, fun _ => rfl, fun R c => Op.keeps_bind c.toChains (c.checkGeom _ _) fun _ => c.quantizeImage⟩
  | pln2img =>
    exact ⟨_, fun _ => rfl, fun R c => Op.keeps_bind c.toChains (c.checkGeom _ _) fun _ => c.unpackImage⟩
  | hdrWr =>
    exact ⟨_, fun _ => rfl, fun R c => Op.keeps_bind c.toChains
      (Op.keeps_reading fun _ => Op.keeps_raiseIf c.toChains _ _) fun _ => c.writeHeader⟩
  | hdrRd => exact ⟨_, fun _ => rfl, fun R c => c.readHeader⟩
  | rleEnc k =>
    exact ⟨_, fun _ => rfl, fun R c => Op.keeps_bind c.toChains (c.checkGeom _ _) fun _ =>
      Op.keeps_bind c.toChains (c.checkPlaneRow k) fun _ => Op.keeps_reading fun y => c.encodePlaneRow _ _⟩
  | encScan =>
    exact ⟨_, fun _ => rfl, fun R c => Op.keeps_bind c.toChains (c.checkGeom _ _) fun _ =>
      Op.keeps_bind c.toChains c.checkRow fun _ => c.encodeScan⟩
  | encImage =>
    exact ⟨_, fun _ => rfl, fun R c => Op.keeps_bind c.toChains (c.checkGeom _ _) fun _ =>
      Op.keeps_bind c.toChains c.quantizeImage fun _ => Op.keeps_bind c.toChains c.writeHeader fun _ =>
        Op.keeps_bind c.toChains (Op.keeps_update c.firstScan) fun _ =>
          Op.keeps_reading fun n => Op.keeps_times c.toChains c.encodeScan n⟩
  | rleDec k =>
    exact ⟨_, fun _ => rfl, fun R c => Op.keeps_bind c.toChains (c.checkGeom _ _) fun _ =>
      Op.keeps_bind c.toChains (c.checkPlaneRow k) fun _ => Op.keeps_reading fun a => c.rleDecodeRow (some a)⟩
  | decScan =>
    exact ⟨_, fun _ => rfl, fun R c => Op.keeps_bind c.toChains (c.checkGeom _ _) fun _ =>
      Op.keeps_bind c.toChains c.checkRow fun _ => c.decodeScan⟩
  | decImage =>
    exact ⟨_, fun _ => rfl, fun R c => Op.keeps_bind c.toChains c.readHeader fun _ =>
      Op.keeps_bind c.toChains (c.checkGeom _ _) fun _ => Op.keeps_bind c.toChains (Op.keeps_update c.firstScan) fun _ =>
        Op.keeps_bind c.toChains (Op.keeps_reading fun n => Op.keeps_times c.toChains c.decodeScan n) fun _ =>
          c.unpackImage⟩
  | rleZero | rleDump | rleDump128 | rleRepeat1 | rleRepeat | scanMarker | rgbeQuad => nomatch h

end Sys2Proof.Machine
end

section
/-! The invariant of `Safety.lean` under one step (O53), and that a step from it always answers (O55). -/

namespace Sys2Proof.Machine

open Sys2Proof.Spec

/-! ### What a write to `CMD` executes -/

/-- A word that decodes is a command (R61). -/
theorem decodeCommand_isCommand {w : Word} {i : Instr} (h : decode (.command w) = .ok i) : isCommand i = true := by
  simp only [decode, decodeCommand] at h
  split at h
  all_goals simp only [decodeZ_ok, decodeK_ok, reduceCtorEq] at h
  all_goals (obtain ⟨-, rfl⟩ := h; rfl)

/-- NOP is the one command whose word is 0 (R61). -/
theorem Instr.word_ne_zero {i : Instr} (h : isCommand i = true) (hn : i ≠ .nop) : i.word ≠ 0#32 := by
  cases i with
  | nop => exact absurd rfl hn
  | rleEnc k => revert k; decide
  | rleDec k => revert k; decide
  | rleZero | rleDump | rleDump128 | rleRepeat1 | rleRepeat | scanMarker | rgbeQuad => nomatch h
  | _ => decide

/-! ### The invariant and the writes -/

/-- The byte read moves the cursor up to the end of the stream at most (R19, R46). -/
theorem State.Inv.getByte {f : FaultCode} {s : State} (h : s.Inv) : ((getByte f).final s).Inv := by
  by_cases hb : s.spos.toNat < s.slen.toNat
  · rw [final_ok (getByte_ok hb)]
    have hs : (s.spos + 1#32).toNat ≤ s.slen.toNat := (spos_succ hb s.slen.isLt).trans_le hb
    exact { h with sposBound := hs.trans h.slenBound }
  · rw [final_error (getByte_error hb)]
    exact h

/-- The byte written moves the cursor and the length up to the capacity at most (R19, R48). -/
theorem State.Inv.putByte {b : Byte} {s : State} (h : s.Inv) : ((putByte b).final s).Inv := by
  by_cases hb : s.spos.toNat < s.cfg.strBytes.toNat
  · rw [final_ok (putByte_ok hb)]
    have hs : (s.spos + 1#32).toNat ≤ s.cfg.strBytes.toNat := (spos_succ hb s.cfg.strBytes.isLt).trans_le hb
    refine { h with strWf := Memory.wf_store _ _ h.strWf, sposBound := hs, slenBound := ?_ }
    show (if s.slen.toNat < s.spos.toNat + 1 then s.spos + 1#32 else s.slen).toNat ≤ s.cfg.strBytes.toNat
    split
    · exact hs
    · exact h.slenBound
  · rw [final_error (putByte_error hb)]
    exact h

theorem State.Inv.writeImg {s : State} (h : s.Inv) (a : Nat) (v : Word) : (s.writeImg a v).Inv :=
  { h with imgWf := Memory.wf_store a v h.imgWf }

theorem State.Inv.writePln {s : State} (h : s.Inv) (a : Nat) (v : Byte) : (s.writePln a v).Inv :=
  { h with plnWf := Memory.wf_store a v h.plnWf }

theorem State.Inv.writeStr {s : State} (h : s.Inv) (a : Nat) (v : Byte) : (s.writeStr a v).Inv :=
  { h with strWf := Memory.wf_store a v h.strWf }

/-- The end of a scanline writes bit 4 of `STATUS`, so bits 31:5 and `ERR` stay as they are (R24). -/
theorem State.Inv.endScan {s : State} (h : s.Inv) (b : Bool) : (s.endScan b).Inv :=
  { h with
    statusBits := by
      have hb := Bool.toNat_lt b
      have hs := h.statusBits
      have e : (s.endScan b).status.toNat = _ := s.setStrat_status_toNat b
      omega
    errCode := by rw [State.err_endScan]; exact h.errCode
    ecmdLatched := by rw [State.err_endScan]; exact h.ecmdLatched }

/-- Every primitive write of a command keeps the invariant. -/
theorem inv_closedUnderWrites : ClosedUnderWrites fun s t => s.Inv → t.Inv where
  refl _ := id
  trans _ _ _ h1 h2 h := h2 (h1 h)
  getByte _ _ := State.Inv.getByte
  putByte _ _ := State.Inv.putByte
  writeImg a v _ h := h.writeImg a v
  writePln a v _ h := h.writePln a v
  setQuad _ _ h := { h with }
  setFloats _ _ _ _ h := { h with }
  setDimensions _ _ _ h := { h with }
  firstScan _ h := { h with }
  endScan b _ h := h.endScan b

/-! ### The invariant and the actions of the host -/

/-- Fault entry latches a code of R160 and, with it, the word of the command (R167). -/
theorem State.Inv.enterFault {s : State} (h : s.Inv) (f : FaultCode) {w : Word} (hw : w ≠ 0#32) :
    (s.enterFault f w).Inv :=
  { h with
    statusBits := by
      have h1 := h.statusBits
      have h2 := f.code_le
      have e : (s.enterFault f w).status.toNat = _ := s.setErr_status_toNat f.code
      omega
    errCode := by rw [State.err_enterFault]; exact f.code_le
    notBusy := rfl
    ecmdLatched := by rw [State.err_enterFault]; exact iff_of_false f.code_ne_zero hw }

/-- Soft reset (R152) keeps the memories and gives every register its reset value. -/
theorem State.Inv.softReset {s : State} (h : s.Inv) : s.softReset.Inv :=
  { h with
    modeBits := Nat.zero_le 1
    statusBits := Nat.zero_lt_succ 31
    errCode := Nat.zero_le 5
    sposBound := Nat.zero_le _
    slenBound := Nat.zero_le _
    ecmdLatched := ⟨fun _ => rfl, fun _ => rfl⟩ }

/-- A hard reset (R180, R31) meets the invariant from any state. -/
theorem State.hardReset_inv (s : State) : s.hardReset.Inv where
  imgWf := rfl
  plnWf := rfl
  strWf := rfl
  modeBits := Nat.zero_le 1
  statusBits := Nat.zero_lt_succ 31
  errCode := Nat.zero_le 5
  sposBound := Nat.zero_le _
  slenBound := Nat.zero_le _
  notBusy := rfl
  ecmdLatched := ⟨fun _ => rfl, fun _ => rfl⟩

/-- A host write to `SPOS` or `SLEN` is clamped to the capacity (R19, R153). -/
theorem State.clampToStream_le (v : Word) (s : State) : (s.clampToStream v).toNat ≤ s.cfg.strBytes.toNat := by
  unfold State.clampToStream
  split
  · assumption
  · exact Nat.le_refl _

/-- A host register write (R153): `MODE` takes bit 0 only, `SPOS` and `SLEN` are clamped, the other registers it can write
are free. -/
theorem State.Inv.writeReg {s : State} (h : s.Inv) (idx : Nat) (v : Word) : (s.writeReg idx v).Inv := by
  have hm : (v &&& 1#32).toNat ≤ 1 := by rw [BitVec.toNat_and]; exact Nat.and_le_right
  have hc := s.clampToStream_le v
  unfold State.writeReg
  split
  case h_7 => exact { h with modeBits := hm }
  case h_11 => exact { h with sposBound := hc }
  case h_12 => exact { h with slenBound := hc }
  all_goals exact { h with }

/-- SRST between commands (R152). -/
theorem exec_srst {s : State} (h : s.decoding = none) : exec .srst s = .next s.softReset := by
  rw [exec, execSrst, busy_eq_false h, if_neg Bool.false_ne_true]

/-- A command whose word is not 0 keeps the invariant if its pseudocode does. -/
theorem State.Inv.command {w : Word} {body : Op Unit} {s t : State} (h : s.Inv)
    (hk : Op.Keeps (fun s t => s.Inv → t.Inv) body) (hw : w ≠ 0#32) (e : command w body s = .next t) : t.Inv := by
  rcases command_answers e with ⟨_, rfl⟩ | ⟨_, hb⟩ | ⟨_, f, u, hb, rfl⟩
  · exact h
  · exact final_ok hb ▸ hk s h
  · exact State.Inv.enterFault (final_error hb ▸ hk s h) f hw

theorem State.Inv.exec {i : Instr} {s t : State} (h : s.Inv) (hi : isCommand i = true) (e : exec i s = .next t) :
    t.Inv := by
  by_cases hn : i = .nop
  · subst hn
    rcases command_answers e with ⟨_, rfl⟩ | ⟨_, hb⟩ | ⟨_, f, u, hb, _⟩
    · exact h
    · rw [pure_apply] at hb; injection hb with _ hb; exact hb ▸ h
    · nomatch hb
  by_cases hs : i = .srst
  · subst hs
    rw [exec_srst h.notBusy] at e
    injection e with e
    exact e ▸ h.softReset
  obtain ⟨body, hbody, hkeeps⟩ := command_isFramed hi hs
  exact h.command (hkeeps _ inv_closedUnderWrites) (Instr.word_ne_zero hi hn) (hbody s ▸ e)

theorem State.Inv.execute {w : Word} {s t : State} (h : s.Inv) (e : execute w s = .next t) : t.Inv := by
  unfold Machine.execute at e
  split at e
  · rename_i i hi
    exact h.exec (decodeCommand_isCommand hi) e
  · rename_i r hr
    have hw : w ≠ 0#32 := by rintro rfl; nomatch hr
    exact h.command (Op.keeps_raise inv_closedUnderWrites.toChains _) hw e

theorem State.Inv.perform {a : HostAction} {s t : State} (h : s.Inv) (e : perform a s = .next t) : t.Inv := by
  unfold Machine.perform at e
  split at e
  case h_1 idx v =>
    split at e
    · exact h.execute e
    · injection e with e; exact e ▸ h.writeReg idx v
  all_goals injection e with e; subst e
  case h_2 => exact { h with }
  case h_6 => exact { h with }
  case h_7 => exact s.hardReset_inv
  all_goals split
  · exact h.writeImg _ _
  · exact h
  · exact h.writePln _ _
  · exact h
  · exact h.writeStr _ _
  · exact h

/-- Between commands a step is one host action, or nothing when the host's list is over (R28, R183). -/
theorem step_idle {s : State} (h : s.decoding = none) : step s = hostStep s := by rw [step, h]

/-- Settles O53: between commands a step is one host action, and each keeps the invariant; a command does because its
pseudocode is built of writes that do. -/
theorem stepKeepsInvariant : Obligations.StepKeepsInvariant := by
  unfold Obligations.StepKeepsInvariant
  intro s t h e
  rw [step_idle h.notBusy, hostStep] at e
  split at e
  · exact State.Inv.perform (s := { s with pc := s.pc + 1 }) { h with } e
  · injection e with e; exact e ▸ h

/-! ### No step from the invariant stops -/

/-- Between commands no command stops the machine, whatever it does (R150, R168). -/
theorem command_next (w : Word) (body : Op Unit) {s : State} (h : s.decoding = none) :
    ∃ t, command w body s = .next t := by
  by_cases he : s.err = 0#4
  · rw [command_ready ⟨h, he⟩]; exact settle_next w (body s)
  · exact ⟨s, command_faulted h he⟩

theorem exec_next {i : Instr} {s : State} (h : s.decoding = none) (hi : isCommand i = true) :
    ∃ t, exec i s = .next t := by
  by_cases hs : i = .srst
  · exact ⟨s.softReset, hs ▸ exec_srst h⟩
  · obtain ⟨body, hbody, -⟩ := command_isFramed hi hs
    exact hbody s ▸ command_next _ body h

/-- Every write to `CMD` between commands is answered, an illegal word's too (R63, R150). -/
theorem execute_next (w : Word) {s : State} (h : s.decoding = none) : ∃ t, execute w s = .next t := by
  unfold execute
  split
  · rename_i i hi; exact exec_next h (decodeCommand_isCommand hi)
  · exact command_next w _ h

theorem perform_next (a : HostAction) {s : State} (h : s.decoding = none) : ∃ t, perform a s = .next t := by
  unfold perform
  split
  case h_1 idx v =>
    split
    · exact execute_next v h
    · exact ⟨_, rfl⟩
  all_goals exact ⟨_, rfl⟩

/-- Settles O55: the invariant holds only between commands, where a step is one host action, and each is answered. -/
theorem stepNeverStops : Obligations.StepNeverStops := by
  unfold Obligations.StepNeverStops
  intro s h
  rw [step_idle h.notBusy, hostStep]
  split
  · exact perform_next _ h.notBusy
  · exact ⟨s, rfl⟩

end Sys2Proof.Machine
end

section
/-! A decode command as one step is its stream tokens, one step each (O44, O45): the pseudocode of a row, and of a flat
scanline, runs in a token's step exactly as it runs inside the command, because it never looks at the decode context. -/

namespace Sys2Proof.Machine

open Sys2Proof.Spec

/-! ### The pseudocode of the decoder does not look at the decode context -/

/-- The same machine with decode context `d`. -/
def State.withDecoding (d : Option Decoding) (s : State) : State := { s with decoding := d }

/-- A result of pseudocode with its state changed by `g`. -/
def onState {α : Type} (g : State → State) : EStateM.Result FaultCode State α → EStateM.Result FaultCode State α
  | .ok a t => .ok a (g t)
  | .error f t => .error f (g t)

/-- `x` runs alike in every decode context, and leaves the context as it is. -/
def Op.IgnoresDecoding {α : Type} (x : Op α) : Prop :=
  ∀ d s, x (s.withDecoding d) = onState (State.withDecoding d) (x s)

section Ignores

variable {α β : Type}

theorem Op.ignores_pure (a : α) : Op.IgnoresDecoding (pure a) := fun _ _ => rfl

theorem Op.ignores_raise (f : FaultCode) : Op.IgnoresDecoding (raise f : Op α) := fun _ _ => rfl

theorem Op.ignores_raiseIf (b : Bool) (f : FaultCode) : Op.IgnoresDecoding (raiseIf b f) := fun _ _ => by
  cases b <;> rfl

theorem Op.ignores_update {g : State → State} (h : ∀ d s, g (s.withDecoding d) = (g s).withDecoding d) :
    Op.IgnoresDecoding (update g) := fun d s => congrArg (EStateM.Result.ok ()) (h d s)

theorem Op.ignores_reading {g : State → α} {k : α → Op β} (hg : ∀ d s, g (s.withDecoding d) = g s)
    (hk : ∀ a, Op.IgnoresDecoding (k a)) : Op.IgnoresDecoding (reading g k) := fun d s => by
  rw [reading_apply, reading_apply, hg]; exact hk _ d s

theorem Op.ignores_bind {x : Op α} {k : α → Op β} (hx : Op.IgnoresDecoding x) (hk : ∀ a, Op.IgnoresDecoding (k a)) :
    Op.IgnoresDecoding (x >>= k) := fun d s => by
  cases e : x s with
  | ok a t => rw [bind_ok e, bind_ok (by rw [hx, e]; rfl)]; exact hk a d t
  | error f t => rw [bind_error e, bind_error (by rw [hx, e]; rfl)]; rfl

theorem Op.ignores_forUp {body : Nat → Op Unit} (h : ∀ i, Op.IgnoresDecoding (body i)) (n i : Nat) :
    Op.IgnoresDecoding (forUp body n i) := by
  induction n generalizing i with
  | zero => exact Op.ignores_pure ()
  | succ n ih => exact Op.ignores_bind (h i) fun _ => ih (i + 1)

theorem Op.IgnoresDecoding.final {x : Op α} (h : Op.IgnoresDecoding x) (d : Option Decoding) (s : State) :
    x.final (s.withDecoding d) = (x.final s).withDecoding d := by
  rw [Op.final, h, Op.final]
  cases x s <;> rfl

end Ignores

theorem getByte_ignores (f : FaultCode) : Op.IgnoresDecoding (getByte f) := fun d s => by
  by_cases h : s.spos.toNat < s.slen.toNat
  · rw [getByte_ok h]; exact getByte_ok h
  · rw [getByte_error h]; exact getByte_error h

theorem storeAt_ignores (dst : Option Nat) (i : Nat) (v : Byte) : Op.IgnoresDecoding (storeAt dst i v) := by
  cases dst with
  | none => exact Op.ignores_pure ()
  | some a => exact Op.ignores_update fun _ _ => rfl

theorem checkRun_ignores (done n : Nat) : Op.IgnoresDecoding (checkRun done n) :=
  Op.ignores_reading (fun _ _ => rfl) fun b => Op.ignores_raiseIf b _

theorem controlRun_ignores (b : Byte) (dst : Option Nat) (done : Nat) : Op.IgnoresDecoding (controlRun b dst done) := by
  unfold controlRun
  split
  · exact Op.ignores_raise _
  · split
    · exact Op.ignores_bind (checkRun_ignores _ _) fun _ => Op.ignores_bind (getByte_ignores _) fun v =>
        Op.ignores_forUp (fun t => storeAt_ignores dst (done + t) v) _ 0
    · exact Op.ignores_bind (checkRun_ignores _ _) fun _ => Op.ignores_forUp
        (fun t => Op.ignores_bind (getByte_ignores _) fun v => storeAt_ignores dst (done + t) v) _ 0

theorem decodeRun_ignores (dst : Option Nat) (done : Nat) : Op.IgnoresDecoding (decodeRun dst done) :=
  Op.ignores_bind (getByte_ignores _) fun b =>
    Op.ignores_bind (controlRun_ignores b dst done) fun _ => Op.ignores_pure _

theorem flatPixel_ignores (x : Nat) (ds : List (Option Nat)) : Op.IgnoresDecoding (flatPixel x ds) := by
  induction ds with
  | nil => exact Op.ignores_pure ()
  | cons d ds ih =>
    exact Op.ignores_bind (getByte_ignores _) fun v => Op.ignores_bind (storeAt_ignores d x v) fun _ => ih

theorem unpackPixel_withDecoding (p : Nat) (d : Option Decoding) (s : State) :
    (s.withDecoding d).unpackPixel p = (s.unpackPixel p).withDecoding d := by
  have hr : (s.withDecoding d).rgb = s.rgb := rfl
  unfold State.unpackPixel
  rw [hr]
  split <;> rfl

theorem unpackImage_ignores : Op.IgnoresDecoding unpackImage :=
  Op.ignores_reading (fun _ _ => rfl) fun n =>
    Op.ignores_forUp (fun p => Op.ignores_update (unpackPixel_withDecoding p)) n 0

/-! ### What follows a run or a pixel sets the decode context anew -/

theorem State.scanDone_withDecoding (c : DecodeCommand) (b : Bool) (d : Option Decoding) (s : State) :
    (s.withDecoding d).scanDone c b = s.scanDone c b := by
  cases c with
  | rleDec k => rfl
  | decScan => rfl
  | decImage =>
    have h : unpackImage.final ((s.withDecoding d).endScan b) = (unpackImage.final (s.endScan b)).withDecoding d :=
      unpackImage_ignores.final d (s.endScan b)
    unfold State.scanDone
    rw [h]
    rfl

theorem State.runDone_withDecoding (c : DecodeCommand) (dst : Option Nat) (done : Nat) (rest : List (Option Nat))
    (d : Option Decoding) (s : State) : (s.withDecoding d).runDone c dst done rest = s.runDone c dst done rest := by
  cases rest with
  | nil => unfold State.runDone; rw [State.scanDone_withDecoding]; rfl
  | cons e es => rfl

/-- What a quad token does after its four bytes are stored (R141): the scanline goes on, or is done. -/
def State.pixelDone (c : DecodeCommand) (x : Nat) (s : State) : State :=
  if x + 1 < s.width.toNat then s.decodeAt c (.flat (x + 1)) else s.scanDone c false

theorem State.pixelDone_withDecoding (c : DecodeCommand) (x : Nat) (d : Option Decoding) (s : State) :
    (s.withDecoding d).pixelDone c x = s.pixelDone c x := by
  unfold State.pixelDone; rw [State.scanDone_withDecoding]; rfl

/-- What follows a piece of pseudocode only meets the states the piece leaves. -/
theorem bind_update_congr {R : State → State → Prop} {x : Op Unit} {g h : State → State} {s : State}
    (hx : Op.Keeps R x) (hgh : ∀ t, R s t → g t = h t) :
    (x >>= fun _ => update g) s = (x >>= fun _ => update h) s := by
  have hs := hx s
  cases e : x s with
  | ok a t =>
    rw [final_ok e] at hs
    rw [bind_ok e, bind_ok e, update_apply, update_apply, hgh t hs]
  | error f t => rw [bind_error e, bind_error e]

/-- What follows is nothing, if it changes no state the piece leaves. -/
theorem bind_update_self {R : State → State → Prop} {x : Op Unit} {g : State → State} {s : State}
    (hx : Op.Keeps R x) (hg : ∀ t, R s t → g t = t) : (x >>= fun _ => update g) s = x s := by
  rw [bind_update_congr hx (h := id) hg, bind_apply]
  cases x s <;> rfl

/-- Pseudocode that ignores the decode context and ends by setting it anew comes to the same in every context. -/
theorem settle_withDecoding {α : Type} {w : Word} {x : Op α} {g : α → State → State} (hx : Op.IgnoresDecoding x)
    (hg : ∀ a d s, g a (s.withDecoding d) = g a s) (d : Option Decoding) (s : State) :
    settle w ((x >>= fun a => update (g a)) (s.withDecoding d)) = settle w ((x >>= fun a => update (g a)) s) := by
  rw [bind_apply, bind_apply, hx]
  cases x s with
  | ok a t => exact congrArg Host.Outcome.next (hg a d t)
  | error f t => rfl

/-! ### The decode context a command can be in -/

theorem RowInOnly.decodable {s t : State} (h : RowInOnly s t) (d : Decoding) : t.decodable d = s.decodable d := by
  unfold RowInOnly at h; rw [h]; rfl

theorem RowInOnly.width {s t : State} (h : RowInOnly s t) : t.width = s.width := by
  unfold RowInOnly at h; rw [h]

theorem RowInOnly.decoding {s t : State} (h : RowInOnly s t) : t.decoding = s.decoding := by
  unfold RowInOnly at h; rw [h]

theorem State.decodable_row {c : DecodeCommand} {dst : Option Nat} {done : Nat} {rest : List (Option Nat)} {s : State} :
    s.decodable ⟨c, .row dst done rest⟩ = true ↔
      s.decodable ⟨c, .head⟩ = true ∧ done < s.width.toNat ∧ s.rowInside dst = true ∧
        ∀ d ∈ rest, s.rowInside d = true := by
  simp [State.decodable, and_assoc]

theorem State.decodable_flat {c : DecodeCommand} {x : Nat} {s : State} :
    s.decodable ⟨c, .flat x⟩ = true ↔ s.decodable ⟨c, .head⟩ = true ∧ x < s.width.toNat := by
  simp [State.decodable]

/-- A decode command has a row to decode (R166): the width is not 0, and the scanline is one of the image. -/
theorem State.decodable_geometry {c : DecodeCommand} {s : State} (h : s.decodable ⟨c, .head⟩ = true) :
    0 < s.width.toNat ∧ s.ycnt.toNat < s.height.toNat := by
  simp only [State.decodable, Bool.and_eq_true, decide_eq_true_eq, State.geomFits_iff] at h
  obtain ⟨⟨⟨-, hw, -⟩, hy⟩, -⟩ := h
  exact ⟨Nat.pos_of_ne_zero fun e => hw (BitVec.eq_of_toNat_eq e), hy⟩

/-- A plane row of the image lies inside the planes (R22, R45). -/
theorem State.rowInside_rowBase {k y : Nat} {s : State} (hk : k < s.planes) (hy : y < s.height.toNat) :
    s.rowInside (some (s.rowBase k y)) = true := by
  have h1 : (y + 1) * s.width.toNat ≤ s.height.toNat * s.width.toNat := Nat.mul_le_mul_right _ hy
  have h2 : (k + 1) * s.pixels ≤ s.planes * s.pixels := Nat.mul_le_mul_right _ hk
  have h3 : s.pixels = s.height.toNat * s.width.toNat := Nat.mul_comm _ _
  rw [Nat.succ_mul] at h1 h2
  refine decide_eq_true ?_
  rw [State.rowBase]
  omega

theorem State.destinations_inside {s : State} (hy : s.ycnt.toNat < s.height.toNat) :
    ∀ d ∈ s.destinations s.ycnt.toNat, s.rowInside d = true := by
  have hp : 2 ≤ s.planes := by unfold State.planes; split <;> decide
  intro d hd
  cases hr : s.rgb with
  | true =>
    have h4 : s.planes = 4 := by rw [State.planes, if_pos hr]
    simp only [State.destinations, hr, if_true, List.mem_cons, List.not_mem_nil, or_false] at hd
    rcases hd with rfl | rfl | rfl | rfl <;> exact State.rowInside_rowBase (by omega) hy
  | false =>
    simp only [State.destinations, hr, Bool.false_eq_true, if_false, List.mem_cons, List.not_mem_nil, or_false] at hd
    rcases hd with rfl | rfl | rfl | rfl
    · exact State.rowInside_rowBase (by omega) hy
    · rfl
    · rfl
    · exact State.rowInside_rowBase (by omega) hy

/-! ### One token step -/

/-- A control byte decodes to the token whose meaning is the run of that byte (R66, R136). -/
theorem exec_decodeControl (b : Byte) (s : State) :
    exec (decodeControl b) s = runToken (runLength b) (controlRun b) s := by
  by_cases h0 : b = 0#8
  · subst h0; rfl
  by_cases h1 : b.toNat < 128
  · have hc : controlRun b = literalRun b.toNat := by
      funext dst done; rw [controlRun, if_neg h0, if_neg (by omega), runLength, if_neg (by omega)]
    have hn : (b.extractLsb' 0 7).toNat = b.toNat := by rw [extract_toNat]; omega
    rw [decodeControl, if_neg h0, if_pos h1, hc, runLength, if_neg (by omega), ← hn]
    rfl
  by_cases h2 : b = 128#8
  · subst h2; rfl
  by_cases h3 : b = 129#8
  · subst h3; rfl
  have hb : 129 < b.toNat := by
    have e2 : b.toNat ≠ 128 := fun e => h2 (BitVec.eq_of_toNat_eq e)
    have e3 : b.toNat ≠ 129 := fun e => h3 (BitVec.eq_of_toNat_eq e)
    omega
  have hc : controlRun b = repeatRun (b.toNat - 128) := by
    funext dst done; rw [controlRun, if_neg h0, if_pos (by omega), runLength, if_pos (by omega)]
  have hn : (b.extractLsb' 0 7).toNat = b.toNat - 128 := by
    have := b.isLt
    rw [extract_toNat]; omega
  rw [decodeControl, if_neg h0, if_neg h1, if_neg h2, if_neg h3, hc, runLength, if_pos (by omega), ← hn]
  rfl

theorem runToken_row {c : DecodeCommand} {dst : Option Nat} {done n : Nat} {rest : List (Option Nat)}
    {body : Option Nat → Nat → Op Unit} {s : State} (h : s.decoding = some ⟨c, .row dst done rest⟩)
    (hd : s.decodable ⟨c, .row dst done rest⟩ = true) :
    runToken n body s =
      settle c.word ((body dst done >>= fun _ => update (State.runDone c dst (done + n) rest)) s) := by
  rw [runToken, h, bind_apply]
  simp only [hd, if_true]
  cases body dst done s <;> rfl

/-- The step inside a plane row is one turn of the loop of `RleDecodeRow` (R136). -/
theorem step_row {c : DecodeCommand} {dst : Option Nat} {done : Nat} {rest : List (Option Nat)} {s : State}
    (h : s.decoding = some ⟨c, .row dst done rest⟩) (hd : s.decodable ⟨c, .row dst done rest⟩ = true) :
    step s = settle c.word ((decodeRun dst done >>= fun n => update (State.runDone c dst (done + n) rest)) s) := by
  rw [step, h]
  simp only [decodeStep, hd, if_true]
  by_cases hb : s.spos.toNat < s.slen.toNat
  · have hrun : execCode (.control (s.readStr s.spos.toNat)) (s.moveCursor 1) = _ :=
      (exec_decodeControl _ _).trans (runToken_row (s := s.moveCursor 1) h hd)
    rw [getByte_apply, if_pos hb]
    refine hrun.trans ?_
    rw [bind_apply, bind_apply, decodeRun_control hb, bind_apply]
    cases controlRun (s.readStr s.spos.toNat) dst done (s.moveCursor 1) <;> rfl
  · rw [getByte_error hb, bind_error (decodeRun_end hb)]
    rfl

/-! ### Four bytes at once -/

theorem getByte_moveCursor {f : FaultCode} {s : State} {n : Nat} (h : s.spos.toNat + n < s.slen.toNat) :
    getByte f (s.moveCursor n) = .ok (s.readStr (s.spos.toNat + n)) (s.moveCursor (n + 1)) := by
  have hp : (s.moveCursor n).spos.toNat = s.spos.toNat + n :=
    State.moveCursor_spos (b := s.slen.toNat) (by omega) s.slen.isLt
  rw [getByte_apply, hp, State.moveCursor_slen, if_pos h, State.moveCursor_moveCursor]
  rfl

/-- The next four bytes of the stream as a quad (R65). -/
def State.nextQuad (s : State) : Quad :=
  ⟨s.readStr s.spos.toNat, s.readStr (s.spos.toNat + 1), s.readStr (s.spos.toNat + 2), s.readStr (s.spos.toNat + 3)⟩

theorem getFour_ok {s : State} (h : s.spos.toNat + 4 ≤ s.slen.toNat) :
    getFour s = .ok s.nextQuad.word (s.moveCursor 4) := by
  have h0 : getByte .truncatedData s = .ok _ (s.moveCursor 1) := getByte_ok (by omega)
  rw [getFour, bind_ok h0, bind_ok (getByte_moveCursor (n := 1) (by omega)),
    bind_ok (getByte_moveCursor (n := 2) (by omega)), bind_ok (getByte_moveCursor (n := 3) (by omega))]
  rfl

theorem skipMarker_ok {s : State} (h : s.spos.toNat + 4 ≤ s.slen.toNat) : skipMarker s = .ok () (s.moveCursor 4) := by
  have skip : ∀ n, n < 4 → (getByte .truncatedData >>= fun _ => pure ()) (s.moveCursor n) =
      (.ok () (s.moveCursor (n + 1)) : EStateM.Result FaultCode State Unit) := fun n hn => by
    rw [bind_ok (getByte_moveCursor (by omega))]; rfl
  have h0 := skip 0 (by omega)
  rw [State.moveCursor_zero] at h0
  rw [skipMarker, times_succ, bind_ok h0, times_succ, bind_ok (skip 1 (by omega)), times_succ,
    bind_ok (skip 2 (by omega)), times_succ, bind_ok (skip 3 (by omega)), times_zero]

/-- A quad's four bytes are the fields of its word (R13, R65). -/
theorem decodePixel_word (q : Quad) : decodePixel q.word = .rgbeQuad q.r q.g q.b q.e := by
  have h : (State.reset.setQuad q).quad = q := quad_setQuad q State.reset
  exact congrArg (fun q : Quad => Instr.rgbeQuad q.r q.g q.b q.e) h

theorem decodeHead_word (q : Quad) :
    decodeHead q.word =
      if q.r = 2#8 ∧ q.g = 2#8 then .scanMarker q.b q.e else .rgbeQuad q.r q.g q.b q.e := by
  have hq : (State.reset.setQuad q).quad = q := quad_setQuad q State.reset
  have hr : q.word.extractLsb' 24 8 = q.r := congrArg Quad.r hq
  have hg : q.word.extractLsb' 16 8 = q.g := congrArg Quad.g hq
  have hb : q.word.extractLsb' 8 8 = q.b := congrArg Quad.b hq
  have he : q.word.extractLsb' 0 8 = q.e := congrArg Quad.e hq
  have hi : q.word.extractLsb' 16 16 = 0x0202#16 ↔ q.r = 2#8 ∧ q.g = 2#8 := by
    rw [← hr, ← hg]
    simp only [← BitVec.toNat_inj, extract_toNat, BitVec.toNat_ofNat]
    omega
  rw [decodeHead, decodePixel_word, hb, he]
  simp only [hi]

/-- The marker test (R139) is a test of the next quad, all of it in the stream. -/
theorem isMarker_iff (s : State) :
    isMarker s = true ↔ s.spos.toNat + 4 ≤ s.slen.toNat ∧ (s.nextQuad.r = 2#8 ∧ s.nextQuad.g = 2#8) ∧
      s.nextQuad.b.toNat * 256 + s.nextQuad.e.toNat = s.width.toNat := by
  by_cases h : s.spos.toNat + 4 ≤ s.slen.toNat
  · have hp : ∀ i, i < 4 → peekByte s i = some (s.readStr (s.spos.toNat + i)) := fun i hi => if_pos (by omega)
    rw [isMarker, hp 0 (by omega), hp 1 (by omega), hp 2 (by omega), hp 3 (by omega)]
    simp [h, State.nextQuad]
  · have hp : peekByte s 3 = none := if_neg (by omega)
    rw [isMarker, hp]
    simp [h]

/-! ### One quad or marker step -/

theorem State.storeFlat_only (x : Nat) (ds : List (Option Nat)) (vs : List Byte) (s : State) :
    PlanesOnly s (s.storeFlat x ds vs) := by
  induction ds generalizing vs s with
  | nil => cases vs <;> rfl
  | cons d ds ih =>
    cases vs with
    | nil => cases d <;> rfl
    | cons v vs =>
      cases d with
      | none => exact ih vs s
      | some a => exact planesOnly_chains.trans s (s.writePln (a + x) v) _ rfl (ih vs _)

theorem State.storeFlat_moveCursor (x : Nat) (ds : List (Option Nat)) (vs : List Byte) (n : Nat) (s : State) :
    (s.moveCursor n).storeFlat x ds vs = (s.storeFlat x ds vs).moveCursor n := by
  induction ds generalizing vs s with
  | nil => cases vs <;> rfl
  | cons d ds ih =>
    cases vs with
    | nil => cases d <;> rfl
    | cons v vs =>
      cases d with
      | none => exact ih vs s
      | some a => exact ih vs (s.writePln (a + x) v)

@[simp] theorem State.destinations_length (y : Nat) (s : State) : (s.destinations y).length = 4 := by
  unfold State.destinations; split <;> rfl

theorem pixelToken_eq (c : DecodeCommand) (x : Nat) (q : Quad) (s : State) :
    pixelToken c x q s =
      .next ((s.storeFlat x (s.destinations s.ycnt.toNat) [q.r, q.g, q.b, q.e]).pixelDone c x) := by
  have hw : (s.storeFlat x (s.destinations s.ycnt.toNat) [q.r, q.g, q.b, q.e]).width = s.width := by
    rw [s.storeFlat_only x _ _]
  rw [pixelToken, State.pixelDone, hw]
  split <;> rfl

/-- A four-byte unit that is read as a pixel is one turn of the flat loop (R141), on any stream. -/
theorem quadStep_pixel {c : DecodeCommand} {x : Nat} {code : Word → Code} {s : State}
    (h : s.spos.toNat + 4 ≤ s.slen.toNat →
      execCode (code s.nextQuad.word) (s.moveCursor 4) = pixelToken c x s.nextQuad (s.moveCursor 4)) :
    quadStep c x code s =
      settle c.word ((flatPixel x (s.destinations s.ycnt.toNat) >>= fun _ => update (State.pixelDone c x)) s) := by
  unfold quadStep
  by_cases hb : s.spos.toNat + 4 ≤ s.slen.toNat
  · have hp : flatPixel x (s.destinations s.ycnt.toNat) s =
        .ok () ((s.moveCursor 4).storeFlat x (s.destinations s.ycnt.toNat) (s.strSlice s.spos.toNat 4)) := by
      rw [flatPixel_apply, State.destinations_length, if_pos (by omega), State.storeFlat_moveCursor]
    rw [if_pos hb, getFour_ok hb, bind_ok hp]
    exact (h hb).trans (pixelToken_eq c x _ _)
  · have hp := flatPixel_apply x (s.destinations s.ycnt.toNat) s
    rw [State.destinations_length, if_neg (by omega)] at hp
    rw [if_neg hb, bind_error hp, hp]

theorem exec_quad_at_flat {c : DecodeCommand} {x : Nat} {q : Quad} {s : State} (h : s.decoding = some ⟨c, .flat x⟩)
    (hd : s.decodable ⟨c, .flat x⟩ = true) : exec (.rgbeQuad q.r q.g q.b q.e) s = pixelToken c x q s := by
  rw [exec, execRgbeQuad, h]
  exact if_pos hd

theorem exec_quad_at_head {c : DecodeCommand} {q : Quad} {s : State} (h : s.decoding = some ⟨c, .head⟩)
    (hd : s.decodable ⟨c, .head⟩ = true) : exec (.rgbeQuad q.r q.g q.b q.e) s = pixelToken c 0 q s := by
  rw [exec, execRgbeQuad, h]
  exact if_pos hd

theorem exec_marker_at_head {c : DecodeCommand} {m l : Byte} {s : State} (h : s.decoding = some ⟨c, .head⟩)
    (hd : s.decodable ⟨c, .head⟩ = true) :
    exec (.scanMarker m l) s =
      if m.toNat * 256 + l.toNat = s.width.toNat then .next (s.beginRows c) else pixelToken c 0 ⟨2#8, 2#8, m, l⟩ s := by
  rw [exec, execScanMarker, h]
  exact if_pos hd

/-- The step inside a flat scanline is one turn of its loop (R141). -/
theorem step_flat {c : DecodeCommand} {x : Nat} {s : State} (h : s.decoding = some ⟨c, .flat x⟩)
    (hd : s.decodable ⟨c, .flat x⟩ = true) :
    step s =
      settle c.word ((flatPixel x (s.destinations s.ycnt.toNat) >>= fun _ => update (State.pixelDone c x)) s) := by
  rw [step, h]
  simp only [decodeStep, hd, if_true]
  refine quadStep_pixel fun _ => ?_
  rw [execCode, decode, decodePixel_word]
  exact exec_quad_at_flat (s := s.moveCursor 4) h hd

/-- The step at the head of a scanline that is not marked is the first turn of the flat loop (R75, R141). -/
theorem step_head_flat {c : DecodeCommand} {s : State} (h : s.decoding = some ⟨c, .head⟩)
    (hd : s.decodable ⟨c, .head⟩ = true) (hm : isMarker s = false) :
    step s =
      settle c.word ((flatPixel 0 (s.destinations s.ycnt.toNat) >>= fun _ => update (State.pixelDone c 0)) s) := by
  rw [step, h]
  simp only [decodeStep, hd, if_true]
  refine quadStep_pixel fun hb => ?_
  rw [execCode, decode, decodeHead_word]
  by_cases hq : s.nextQuad.r = 2#8 ∧ s.nextQuad.g = 2#8
  · have hw : ¬ s.nextQuad.b.toNat * 256 + s.nextQuad.e.toNat = s.width.toNat := fun hw =>
      Bool.false_ne_true (hm.symm.trans ((isMarker_iff s).mpr ⟨hb, hq, hw⟩))
    rw [if_pos hq]
    exact (exec_marker_at_head (s := s.moveCursor 4) h hd).trans ((if_neg hw).trans
      (congrArg₂ (fun r g => pixelToken c 0 ⟨r, g, _, _⟩ _) hq.1.symm hq.2.symm))
  · rw [if_neg hq]
    exact exec_quad_at_head (s := s.moveCursor 4) h hd

/-- The step at the head of a marked scanline reads the marker and begins the plane rows (R139, R141). -/
theorem step_head_marker {c : DecodeCommand} {s : State} (h : s.decoding = some ⟨c, .head⟩)
    (hd : s.decodable ⟨c, .head⟩ = true) (hm : isMarker s = true) :
    step s = .next ((s.moveCursor 4).beginRows c) := by
  obtain ⟨hb, hq, hw⟩ := (isMarker_iff s).mp hm
  rw [step, h]
  simp only [decodeStep, hd, if_true]
  rw [quadStep, if_pos hb, getFour_ok hb]
  show execCode (.head s.nextQuad.word) (s.moveCursor 4) = _
  rw [execCode, decode, decodeHead_word, if_pos hq]
  exact (exec_marker_at_head (s := s.moveCursor 4) h hd).trans (if_pos hw)

/-! ### Many token steps -/

/-- Some number of steps, at least one, comes to `o`. -/
def ComesTo (s : State) (o : Host.Outcome State Fault Refusal) : Prop := ∃ n, runSteps (n + 1) s = o

theorem runSteps_succ (n : Nat) {s t : State} (h : step s = .next t) : runSteps (n + 1) s = runSteps n t := by
  rw [runSteps, h]

theorem ComesTo.of_step {s t : State} (h : step s = .next t) : ComesTo s (.next t) := ⟨0, runSteps_succ 0 h⟩

theorem ComesTo.of_step_settle {w : Word} {r : EStateM.Result FaultCode State Unit} {s : State}
    (h : step s = settle w r) : ComesTo s (settle w r) := by
  obtain ⟨t, ht⟩ := settle_next w r
  rw [ht] at h ⊢
  exact .of_step h

theorem ComesTo.of_step_eq {s t : State} {o : Host.Outcome State Fault Refusal} (h : step s = step t)
    (ht : ComesTo t o) : ComesTo s o := by
  obtain ⟨n, hn⟩ := ht
  exact ⟨n, by rw [runSteps, h]; exact hn⟩

theorem runSteps_add {m : Nat} (n : Nat) {s t : State} (h : runSteps m s = .next t) :
    runSteps (m + n) s = runSteps n t := by
  induction m generalizing s with
  | zero => injection h with h; rw [Nat.zero_add, h]
  | succ m ih =>
    rw [Nat.succ_add]
    rw [runSteps] at h ⊢
    cases hs : step s with
    | next u => rw [hs] at h; exact ih h
    | fault r => rw [hs] at h; nomatch h
    | refused r => rw [hs] at h; nomatch h

theorem ComesTo.trans {s t : State} {o : Host.Outcome State Fault Refusal} (h : ComesTo s (.next t))
    (ht : ComesTo t o) : ComesTo s o := by
  obtain ⟨m, hm⟩ := h
  obtain ⟨n, hn⟩ := ht
  exact ⟨m + 1 + n, by rw [Nat.add_assoc, runSteps_add (n + 1) hm, hn]⟩

/-- A first piece of pseudocode that the steps come to, and, where it does not raise, what the steps come to after it. -/
theorem ComesTo.settle_bind {w : Word} {x y : Op Unit} {g h : State → State} {s u : State}
    (hx : ComesTo s (settle w ((x >>= fun _ => update g) u)))
    (hy : ∀ t, x u = .ok () t → ComesTo (g t) (settle w ((y >>= fun _ => update h) t))) :
    ComesTo s (settle w ((x >>= fun _ => y >>= fun _ => update h) u)) := by
  cases hr : x u with
  | ok a t =>
    rw [bind_ok hr] at hx ⊢
    exact hx.trans (hy t hr)
  | error f t =>
    rw [bind_error hr] at hx ⊢
    exact hx

/-! ### The rows of an RLE scanline -/

/-- Every control byte but 0 stands for at least one byte of the row (R66). -/
theorem runLength_pos {b : Byte} (h : b ≠ 0#8) : 1 ≤ runLength b := by
  have h0 : b.toNat ≠ 0 := fun e => h (BitVec.eq_of_toNat_eq e)
  unfold runLength
  split <;> omega

/-- A turn of the row loop that does not raise makes progress (R136). -/
theorem decodeRun_pos {dst : Option Nat} {done n : Nat} {s t : State} (h : decodeRun dst done s = .ok n t) : 1 ≤ n := by
  by_cases hb : s.spos.toNat < s.slen.toNat
  · rw [decodeRun_control hb, bind_apply] at h
    by_cases h0 : s.readStr s.spos.toNat = 0#8
    · rw [controlRun, if_pos h0] at h; nomatch h
    · have hn := runLength_pos h0
      split at h
      · rw [pure_apply] at h; injection h with h; exact h ▸ hn
      · nomatch h
  · rw [decodeRun_end hb] at h; nomatch h

/-- The state after a whole plane row (R136, R141). -/
def State.rowDone (c : DecodeCommand) (dst : Option Nat) (rest : List (Option Nat)) (s : State) : State :=
  s.runDone c dst s.width.toNat rest

theorem State.rowDone_cons (c : DecodeCommand) (dst d : Option Nat) (ds : List (Option Nat)) (s : State) :
    s.rowDone c dst (d :: ds) = s.decodeAt c (.row d 0 ds) := if_neg (Nat.lt_irrefl _)

theorem State.rowDone_nil (c : DecodeCommand) (dst : Option Nat) (s : State) :
    s.rowDone c dst [] = s.scanDone c true := if_neg (Nat.lt_irrefl _)

theorem step_decodeAt_row {c : DecodeCommand} {dst : Option Nat} {done : Nat} {rest : List (Option Nat)} {u : State}
    (hd : u.decodable ⟨c, .row dst done rest⟩ = true) :
    step (u.decodeAt c (.row dst done rest)) =
      settle c.word ((decodeRun dst done >>= fun n => update (State.runDone c dst (done + n) rest)) u) :=
  (step_row (s := u.decodeAt c (.row dst done rest)) rfl hd).trans
    (settle_withDecoding (decodeRun_ignores dst done) (fun _ _ _ => State.runDone_withDecoding _ _ _ _ _ _) _ u)

/-- The tokens of what is left of a plane row come to the loop of `RleDecodeRow` (R136). -/
theorem row_comesTo {c : DecodeCommand} {dst : Option Nat} {rest : List (Option Nat)} {fuel done : Nat} {u : State}
    (hd : u.decodable ⟨c, .row dst done rest⟩ = true) (hf : u.width.toNat ≤ done + fuel) :
    ComesTo (u.decodeAt c (.row dst done rest))
      (settle c.word ((decodeRuns dst fuel done >>= fun _ => update (State.rowDone c dst rest)) u)) := by
  induction fuel generalizing done u with
  | zero =>
    obtain ⟨-, hw, -⟩ := State.decodable_row.mp hd
    omega
  | succ fuel ih =>
    obtain ⟨hc, hw, hin⟩ := State.decodable_row.mp hd
    have hstep := step_decodeAt_row hd
    have hk := decodeRun_keeps dst done u
    have hloop := decodeRuns_succ (dst := dst) (fuel := fuel) hw
    cases hr : decodeRun dst done u with
    | error f t =>
      rw [bind_error hr] at hstep hloop
      rw [bind_error hloop]
      exact .of_step hstep
    | ok n t =>
      rw [bind_ok hr] at hstep hloop
      rw [final_ok hr] at hk
      rw [bind_apply, hloop, ← bind_apply]
      have hnext := ComesTo.of_step hstep
      have hwt := hk.width
      have hn := decodeRun_pos hr
      by_cases hfull : done + n < t.width.toNat
      · have hgo : t.runDone c dst (done + n) rest = t.decodeAt c (.row dst (done + n) rest) := if_pos hfull
        have hdt : t.decodable ⟨c, .row dst (done + n) rest⟩ = true := by
          rw [hk.decodable, State.decodable_row, ← hwt]; exact ⟨hc, hfull, hin⟩
        rw [hgo] at hnext
        exact hnext.trans (ih hdt (by rw [hwt]; omega))
      · have hrow : t.runDone c dst (done + n) rest = t.rowDone c dst rest :=
          (if_neg hfull).trans (if_neg (Nat.lt_irrefl _)).symm
        rw [bind_ok (decodeRuns_full hfull), update_apply, ← hrow]
        exact hnext

/-- The tokens of a plane row come to `RleDecodeRow` (R136). -/
theorem rleDecodeRow_comesTo {c : DecodeCommand} {dst : Option Nat} {rest : List (Option Nat)} {u : State}
    (hd : u.decodable ⟨c, .row dst 0 rest⟩ = true) :
    ComesTo (u.decodeAt c (.row dst 0 rest))
      (settle c.word ((rleDecodeRow dst >>= fun _ => update (State.rowDone c dst rest)) u)) :=
  row_comesTo (fuel := u.width.toNat) hd (by omega)

/-- The tokens of the plane rows of a scanline come to `RleDecodeRow` of each (R141). -/
theorem rows_comesTo {c : DecodeCommand} {d : Option Nat} {ds : List (Option Nat)} {u : State}
    (hd : u.decodable ⟨c, .row d 0 ds⟩ = true) :
    ComesTo (u.decodeAt c (.row d 0 ds))
      (settle c.word ((decodeRows (d :: ds) >>= fun _ => update (State.scanDone c true)) u)) := by
  induction ds generalizing d u with
  | nil =>
    have h := rleDecodeRow_comesTo hd
    rw [funext (State.rowDone_nil c d)] at h
    rw [decodeRows, bind_assoc]
    exact h
  | cons e es ih =>
    have h := rleDecodeRow_comesTo hd
    rw [funext (State.rowDone_cons c d e es)] at h
    rw [decodeRows, bind_assoc]
    refine h.settle_bind fun t ht => ih ?_
    have hk := rleDecodeRow_keeps d u
    rw [final_ok ht] at hk
    obtain ⟨hc, hw, -, hin⟩ := State.decodable_row.mp hd
    rw [hk.decodable, State.decodable_row]
    exact ⟨hc, hw, hin e List.mem_cons_self, fun x hx => hin x (List.mem_cons_of_mem e hx)⟩

/-! ### The pixels of a flat scanline -/

theorem step_decodeAt_flat {c : DecodeCommand} {x : Nat} {u : State} (hd : u.decodable ⟨c, .flat x⟩ = true) :
    step (u.decodeAt c (.flat x)) =
      settle c.word ((flatPixel x (u.destinations u.ycnt.toNat) >>= fun _ => update (State.pixelDone c x)) u) :=
  (step_flat (s := u.decodeAt c (.flat x)) rfl hd).trans
    (settle_withDecoding (flatPixel_ignores x _) (fun _ => State.pixelDone_withDecoding c x) _ u)

theorem step_decodeAt_head_flat {c : DecodeCommand} {u : State} (hd : u.decodable ⟨c, .head⟩ = true)
    (hm : isMarker u = false) :
    step (u.decodeAt c .head) =
      settle c.word ((flatPixel 0 (u.destinations u.ycnt.toNat) >>= fun _ => update (State.pixelDone c 0)) u) :=
  (step_head_flat (s := u.decodeAt c .head) rfl hd hm).trans
    (settle_withDecoding (flatPixel_ignores 0 _) (fun _ => State.pixelDone_withDecoding c 0) _ u)

theorem State.pixelDone_more {c : DecodeCommand} {x : Nat} {s : State} (h : x + 1 < s.width.toNat) :
    s.pixelDone c x = s.decodeAt c (.flat (x + 1)) := if_pos h

theorem State.pixelDone_last {c : DecodeCommand} {x : Nat} {s : State} (h : ¬ x + 1 < s.width.toNat) :
    s.pixelDone c x = s.scanDone c false := if_neg h

/-- The tokens of what is left of a flat scanline come to its loop (R141). -/
theorem flat_comesTo {c : DecodeCommand} {ds : List (Option Nat)} {n x : Nat} {u : State}
    (hd : u.decodable ⟨c, .flat x⟩ = true) (hds : u.destinations u.ycnt.toNat = ds)
    (hw : x + (n + 1) = u.width.toNat) :
    ComesTo (u.decodeAt c (.flat x))
      (settle c.word ((forUp (fun x => flatPixel x ds) (n + 1) x >>= fun _ => update (State.scanDone c false)) u)) := by
  induction n generalizing x u with
  | zero =>
    have hlast : ∀ t, RowInOnly u t → t.pixelDone c x = t.scanDone c false := fun t ht =>
      State.pixelDone_last (by rw [ht.width]; omega)
    have hstep := ComesTo.of_step_settle (step_decodeAt_flat hd)
    rw [hds, bind_update_congr (flatPixel_keeps x ds) hlast] at hstep
    rw [forUp_succ, bind_assoc]
    exact hstep
  | succ n ih =>
    have hmore : ∀ t, RowInOnly u t → t.pixelDone c x = t.decodeAt c (.flat (x + 1)) := fun t ht =>
      State.pixelDone_more (by rw [ht.width]; omega)
    have hstep := ComesTo.of_step_settle (step_decodeAt_flat hd)
    rw [hds, bind_update_congr (flatPixel_keeps x ds) hmore] at hstep
    rw [forUp_succ, bind_assoc]
    refine hstep.settle_bind fun t ht => ?_
    have hk := flatPixel_keeps x ds u
    rw [final_ok ht] at hk
    obtain ⟨hc, -⟩ := State.decodable_flat.mp hd
    have hdt : t.decodable ⟨c, .flat (x + 1)⟩ = true := by
      rw [hk.decodable, State.decodable_flat]; exact ⟨hc, by omega⟩
    have hdst : t.destinations t.ycnt.toNat = ds := by
      unfold RowInOnly at hk; rw [← hds, hk]; rfl
    exact ih hdt hdst (by rw [hk.width]; omega)

/-! ### A whole scanline -/

/-- Read at its head, a scanline that is not marked begins with the pixel that the flat loop begins with. -/
theorem head_flat_comesTo {c : DecodeCommand} {u : State} (hd : u.decodable ⟨c, .head⟩ = true)
    (hm : isMarker u = false) :
    ComesTo (u.decodeAt c .head)
      (settle c.word ((decodeScanFlat (u.destinations u.ycnt.toNat) >>= fun _ => update (State.scanDone c false)) u)) := by
  obtain ⟨hw, -⟩ := State.decodable_geometry hd
  obtain ⟨n, hn⟩ : ∃ n, u.width.toNat = n + 1 := ⟨u.width.toNat - 1, by omega⟩
  have hd0 : u.decodable ⟨c, .flat 0⟩ = true := State.decodable_flat.mpr ⟨hd, hw⟩
  have hrun : decodeScanFlat (u.destinations u.ycnt.toNat) u =
      forUp (fun x => flatPixel x (u.destinations u.ycnt.toNat)) (n + 1) 0 u := by
    rw [decodeScanFlat, reading_apply, hn]
  rw [bind_apply, hrun, ← bind_apply]
  exact .of_step_eq ((step_decodeAt_head_flat hd hm).trans (step_decodeAt_flat hd0).symm)
    (flat_comesTo hd0 rfl (by omega))

/-- Read at its head, a marked scanline loses its marker and goes on with its plane rows (R139, R141). -/
theorem head_marker_comesTo {c : DecodeCommand} {u : State} (hd : u.decodable ⟨c, .head⟩ = true)
    (hm : isMarker u = true) :
    ComesTo (u.decodeAt c .head)
      (settle c.word ((decodeScanRle (u.destinations u.ycnt.toNat) >>= fun _ => update (State.scanDone c true)) u)) := by
  obtain ⟨hb, -⟩ := (isMarker_iff u).mp hm
  obtain ⟨hw, hy⟩ := State.decodable_geometry hd
  have hin := State.destinations_inside hy
  have hstep := step_head_marker (s := u.decodeAt c .head) rfl hd hm
  obtain ⟨d, ds, hds⟩ : ∃ d ds, u.destinations u.ycnt.toNat = d :: ds := by
    unfold State.destinations; split <;> exact ⟨_, _, rfl⟩
  have hbegin : ((u.decodeAt c .head).moveCursor 4).beginRows c = (u.moveCursor 4).decodeAt c (.row d 0 ds) := by
    have h : ((u.decodeAt c .head).moveCursor 4).destinations ((u.decodeAt c .head).moveCursor 4).ycnt.toNat =
        d :: ds := hds
    rw [State.beginRows, h]
    rfl
  rw [hds] at hin ⊢
  rw [hbegin] at hstep
  rw [decodeScanRle, bind_assoc, bind_ok (skipMarker_ok hb)]
  refine (ComesTo.of_step hstep).trans (rows_comesTo (State.decodable_row.mpr ⟨hd, hw, ?_⟩))
  exact ⟨hin d List.mem_cons_self, fun x hx => hin x (List.mem_cons_of_mem d hx)⟩

/-- The tokens of a scanline, read at its head, come to the scanline in the form the marker test finds (R141). -/
theorem head_comesTo {c : DecodeCommand} {u : State} (hd : u.decodable ⟨c, .head⟩ = true) :
    ComesTo (u.decodeAt c .head)
      (settle c.word ((decodeScanAs (isMarker u) (u.destinations u.ycnt.toNat) >>= fun _ =>
        update (State.scanDone c (isMarker u))) u)) := by
  cases hm : isMarker u with
  | true => exact head_marker_comesTo hd hm
  | false => exact head_flat_comesTo hd hm

/-! ### The commands -/

theorem State.decodeDone_eq {s : State} (h : s.decoding = none) : s.decodeDone = s := by
  rw [State.decodeDone, ← h]

/-- RLE_DEC with its checks passed is `RleDecodeRow` (R137). -/
theorem exec_rleDec {k : BitVec 2} {s : State} (hr : s.Ready) (hg : s.geomFits s.planes false = true)
    (hk : k.toNat < s.planes) (hy : s.ycnt.toNat < s.height.toNat) :
    exec (.rleDec k) s =
      settle (Instr.word (.rleDec k)) (rleDecodeRow (some (s.rowBase k.toNat s.ycnt.toNat)) s) := by
  refine (command_ready hr).trans (congrArg (settle _) ?_)
  rw [bind_check (checkGeom_apply _ _ s), if_pos hg, bind_check (checkPlaneRow_apply k s), if_pos ⟨hk, hy⟩]
  rfl

/-- DEC_SCAN with its checks passed is one scanline and its end (R141). -/
theorem exec_decScan {s : State} (hr : s.Ready) (hg : s.geomFits s.planes false = true)
    (hy : s.ycnt.toNat < s.height.toNat) :
    exec .decScan s =
      settle (Instr.word .decScan) ((decodeScanAs (isMarker s) (s.destinations s.ycnt.toNat) >>= fun _ =>
        update (State.endScan (isMarker s))) s) := by
  refine (command_ready hr).trans (congrArg (settle _) ?_)
  rw [bind_check (checkGeom_apply _ _ s), if_pos hg, bind_check (checkRow_apply s), if_pos hy]
  rfl

/-- The checks of RLE_DEC and DEC_SCAN set up a decode context at the head of a scanline. -/
theorem State.Ready.decodable {s : State} (hr : s.Ready) {c : DecodeCommand} (hc : c ≠ .decImage)
    (hg : s.geomFits s.planes false = true) (hy : s.ycnt.toNat < s.height.toNat) :
    s.decodable ⟨c, .head⟩ = true := by
  obtain ⟨-, he⟩ := hr
  cases c with
  | decImage => exact absurd rfl hc
  | rleDec k => simp [State.decodable, he, hg, hy]
  | decScan => simp [State.decodable, he, hg, hy]

/-- Settles O44: a token's step is one turn of the row loop, and a row done is the command complete. -/
theorem rleDecIsItsTokens : Obligations.RleDecIsItsTokens := by
  unfold Obligations.RleDecIsItsTokens
  intro s k hr hchecks
  obtain ⟨hgeom, hk, hy⟩ := hchecks
  have hg : s.geomFits s.planes false = true := (State.geomFits_iff _ _ s).mpr hgeom
  have hd := hr.decodable (c := .rleDec k) nofun hg hy
  have hrow : s.decodable ⟨.rleDec k, .row (some (s.rowBase k.toNat s.ycnt.toNat)) 0 []⟩ = true :=
    State.decodable_row.mpr ⟨hd, (State.decodable_geometry hd).1, State.rowInside_rowBase hk hy, fun _ h => nomatch h⟩
  have hdone : ∀ t, RowInOnly s t → t.rowDone (.rleDec k) (some (s.rowBase k.toNat s.ycnt.toNat)) [] = t := fun t ht =>
    (State.rowDone_nil _ _ t).trans (State.decodeDone_eq (ht.decoding.trans hr.1))
  obtain ⟨n, hn⟩ := rleDecodeRow_comesTo hrow
  rw [bind_update_self (rleDecodeRow_keeps _) hdone] at hn
  exact ⟨n + 1, hn.trans (exec_rleDec hr hg hk hy).symm⟩

/-- Settles O45: a token's step is the marker test with its marker, one turn of a row loop, or one pixel; the last of them
ends the scanline as the command does. -/
theorem decScanIsItsTokens : Obligations.DecScanIsItsTokens := by
  unfold Obligations.DecScanIsItsTokens
  intro s hr hchecks
  obtain ⟨hgeom, hy⟩ := hchecks
  have hg : s.geomFits s.planes false = true := (State.geomFits_iff _ _ s).mpr hgeom
  have hdone : ∀ t, RowInOnly s t → t.scanDone .decScan (isMarker s) = t.endScan (isMarker s) := fun t ht =>
    State.decodeDone_eq (ht.decoding.trans hr.1)
  obtain ⟨n, hn⟩ := head_comesTo (hr.decodable (c := .decScan) nofun hg hy)
  rw [bind_update_congr (decodeScanAs_keeps _ _) hdone] at hn
  exact ⟨n + 1, hn.trans (exec_decScan hr hg hy).symm⟩

end Sys2Proof.Machine
end

section
/-! What every instruction keeps, stream tokens included: the primitive writes, and beside them the writes of the decode
context, fault entry and soft reset. Said once for any relation between the state before and the state after (O51). -/

namespace Sys2Proof.Machine

open Sys2Proof.Spec

/-- The relation holds of everything an instruction is built from: the primitive writes of a command's pseudocode, the
decode context that a stream token moves on, fault entry, and soft reset. -/
structure ClosedUnderExec (R : State → State → Prop) : Prop extends ClosedUnderWrites R where
  withDecoding : ∀ d s, R s (s.withDecoding d)
  enterFault : ∀ f w s, R s (s.enterFault f w)
  softReset : ∀ s, R s s.softReset

/-! ### What SRST and a stream token can answer -/

theorem execSrst_answers {s t : State} (e : execSrst s = .next t) : t = s.softReset := by
  unfold execSrst at e
  split at e
  · nomatch e
  · injection e with e; exact e.symm

/-- Everything a run token that answers a next state can have done: nothing, outside a plane row; or its run, and what
follows the run in the row in progress. -/
theorem runToken_answers {n : Nat} {body : Option Nat → Nat → Op Unit} {s t : State} (e : runToken n body s = .next t) :
    t = s ∨ ∃ c dst done rest, s.decoding = some ⟨c, .row dst done rest⟩ ∧
      s.decodable ⟨c, .row dst done rest⟩ = true ∧
      settle c.word ((body dst done >>= fun _ => update (State.runDone c dst (done + n) rest)) s) = .next t := by
  have hrun := e
  unfold runToken at e
  split at e
  case h_1 c dst done rest hd =>
    split at e
    · rename_i hok
      exact .inr ⟨c, dst, done, rest, hd, hok, (runToken_row hd hok).symm.trans hrun⟩
    · nomatch e
  all_goals injection e with e; exact .inl e.symm

/-- Everything a quad token that answers a next state can have done: nothing, outside a flat scanline and its head; or one
pixel. -/
theorem execRgbeQuad_answers {r g b q : Byte} {s t : State} (e : execRgbeQuad r g b q s = .next t) :
    t = s ∨ ∃ c x, pixelToken c x ⟨r, g, b, q⟩ s = .next t := by
  unfold execRgbeQuad at e
  split at e
  case h_1 c _ =>
    split at e
    · exact .inr ⟨c, 0, e⟩
    · nomatch e
  case h_2 c x _ =>
    split at e
    · exact .inr ⟨c, x, e⟩
    · nomatch e
  all_goals injection e with e; exact .inl e.symm

/-- Everything a marker token that answers a next state can have done: nothing, away from the head of a scanline; begin the
plane rows; or, where it names another width, one pixel. -/
theorem execScanMarker_answers {h l : Byte} {s t : State} (e : execScanMarker h l s = .next t) :
    t = s ∨ ∃ c, t = s.beginRows c ∨ pixelToken c 0 ⟨2#8, 2#8, h, l⟩ s = .next t := by
  unfold execScanMarker at e
  split at e
  case h_1 c _ =>
    split at e
    · split at e
      · injection e with e; exact .inr ⟨c, .inl e.symm⟩
      · exact .inr ⟨c, .inr e⟩
    · nomatch e
  all_goals injection e with e; exact .inl e.symm

namespace ClosedUnderExec

variable {R : State → State → Prop} (c : ClosedUnderExec R)

include c

/-! ### Pseudocode and its answer -/

theorem settle {x : Op Unit} (hx : Op.Keeps R x) {w : Word} {s t : State} (e : settle w (x s) = .next t) : R s t := by
  have h := hx s
  cases hr : x s with
  | ok _ u =>
    rw [hr, settle_ok] at e
    rw [final_ok hr] at h
    injection e with e
    exact e ▸ h
  | error f u =>
    rw [hr, settle_error] at e
    rw [final_error hr] at h
    injection e with e
    exact e ▸ c.trans _ _ _ h (c.enterFault f w u)

theorem command {body : Op Unit} (hb : Op.Keeps R body) {w : Word} {s t : State}
    (e : command w body s = .next t) : R s t := by
  rcases command_cases w body s with ⟨-, hc⟩ | ⟨-, -, hc⟩ | ⟨-, -, hc⟩ <;> rw [hc] at e
  · nomatch e
  · injection e with e; exact e ▸ c.refl s
  · exact c.settle hb e

/-! ### The end of a run, a pixel and a scanline -/

theorem scanDone (d : DecodeCommand) (b : Bool) (s : State) : R s (s.scanDone d b) := by
  cases d with
  | rleDec k => exact c.withDecoding none s
  | decScan => exact c.trans _ _ _ (c.endScan b s) (c.withDecoding none _)
  | decImage =>
    have h := c.endScan b s
    by_cases hy : (s.endScan b).ycnt.toNat < s.height.toNat
    · rw [State.scanDone, if_pos hy]
      exact c.trans _ _ _ h (c.withDecoding _ _)
    · rw [State.scanDone, if_neg hy]
      exact c.trans _ _ _ h (c.trans _ _ _ (c.unpackImage _) (c.withDecoding none _))

theorem runDone (d : DecodeCommand) (dst : Option Nat) (done : Nat) (rest : List (Option Nat)) (s : State) :
    R s (s.runDone d dst done rest) := by
  unfold State.runDone
  split
  · exact c.withDecoding _ s
  · split
    · exact c.withDecoding _ s
    · exact c.scanDone d true s

theorem pixelDone (d : DecodeCommand) (x : Nat) (s : State) : R s (s.pixelDone d x) := by
  by_cases h : x + 1 < s.width.toNat
  · rw [State.pixelDone_more h]; exact c.withDecoding _ s
  · rw [State.pixelDone_last h]; exact c.scanDone d false s

theorem storeFlat (x : Nat) (ds : List (Option Nat)) (vs : List Byte) (s : State) : R s (s.storeFlat x ds vs) := by
  induction ds generalizing vs s with
  | nil => cases vs <;> exact c.refl s
  | cons d ds ih =>
    cases vs with
    | nil => cases d <;> exact c.refl s
    | cons v vs =>
      cases d with
      | none => exact ih vs s
      | some a => exact c.trans _ _ _ (c.writePln (a + x) v s) (ih vs _)

theorem beginRows (d : DecodeCommand) (s : State) : R s (s.beginRows d) := by
  unfold State.beginRows
  split
  · exact c.withDecoding _ s
  · exact c.refl s

/-! ### The stream tokens -/

theorem repeatRun (n : Nat) (dst : Option Nat) (done : Nat) : Op.Keeps R (repeatRun n dst done) :=
  Op.keeps_bind c.toChains (c.checkRun _ _) fun _ => Op.keeps_bind c.toChains (c.getByte _) fun v =>
    Op.keeps_forUp c.toChains (fun t => c.storeAt dst (done + t) v) n 0

theorem literalRun (n : Nat) (dst : Option Nat) (done : Nat) : Op.Keeps R (literalRun n dst done) :=
  Op.keeps_bind c.toChains (c.checkRun _ _) fun _ => Op.keeps_forUp c.toChains
    (fun t => Op.keeps_bind c.toChains (c.getByte _) fun v => c.storeAt dst (done + t) v) n 0

theorem runToken {n : Nat} {body : Option Nat → Nat → Op Unit} (hb : ∀ dst done, Op.Keeps R (body dst done))
    {s t : State} (e : runToken n body s = .next t) : R s t := by
  rcases runToken_answers e with rfl | ⟨d, dst, done, rest, -, -, e⟩
  · exact c.refl t
  · exact c.settle (x := body dst done >>= _)
      (Op.keeps_bind c.toChains (hb dst done) fun _ => Op.keeps_update (c.runDone d dst (done + n) rest)) e

theorem pixelToken {d : DecodeCommand} {x : Nat} {q : Quad} {s t : State} (e : pixelToken d x q s = .next t) :
    R s t := by
  rw [pixelToken_eq] at e
  injection e with e
  exact e ▸ c.trans _ _ _ (c.storeFlat x _ _ s) (c.pixelDone d x _)

/-! ### Every instruction -/

/-- Outside SRST an instruction is a framed command or a stream token, and each is built of what `R` is closed under. -/
theorem exec {i : Instr} {s t : State} (e : exec i s = .next t) : R s t := by
  by_cases hc : isCommand i = true ∧ i ≠ .srst
  · obtain ⟨body, hbody, hkeeps⟩ := command_isFramed hc.1 hc.2
    exact c.command (hkeeps R c.toClosedUnderWrites) (hbody s ▸ e)
  cases i with
  | srst =>
    rw [execSrst_answers e]
    exact c.softReset s
  | rleZero => exact c.runToken (n := 0) (fun _ _ => Op.keeps_raise c.toChains _) e
  | rleDump n => exact c.runToken (c.literalRun n.toNat) e
  | rleDump128 => exact c.runToken (c.literalRun 128) e
  | rleRepeat1 => exact c.runToken (c.repeatRun 1) e
  | rleRepeat n => exact c.runToken (c.repeatRun n.toNat) e
  | scanMarker h l =>
    rcases execScanMarker_answers e with rfl | ⟨d, rfl | e⟩
    · exact c.refl t
    · exact c.beginRows d s
    · exact c.pixelToken e
  | rgbeQuad r g b q =>
    rcases execRgbeQuad_answers e with rfl | ⟨d, x, e⟩
    · exact c.refl t
    · exact c.pixelToken e
  | _ => exact absurd ⟨rfl, nofun⟩ hc

end ClosedUnderExec

/-! ### What belongs to the host, and the parameters -/

/-- What no instruction can write: the parameters (R10), the host's program and its index (R28), and the model's own count
of hard resets and value last returned to the host (log 2, log 4). -/
def State.host (s : State) : Config × Nat × List HostAction × Nat × Word :=
  (s.cfg, s.powerOns, s.program, s.pc, s.readData)

theorem CursorOnly.host {s t : State} (h : CursorOnly s t) : t.host = s.host := by
  unfold CursorOnly at h; rw [h]; rfl

theorem StreamOnly.host {s t : State} (h : StreamOnly s t) : t.host = s.host := by
  unfold StreamOnly at h; rw [h]; rfl

theorem host_closedUnderExec : ClosedUnderExec fun s t => t.host = s.host where
  refl _ := rfl
  trans _ _ _ h1 h2 := h2.trans h1
  getByte f s := (getByte_keeps f s).host
  putByte b s := (putByte_keeps b s).host
  writeImg _ _ _ := rfl
  writePln _ _ _ := rfl
  setQuad _ _ := rfl
  setFloats _ _ _ _ := rfl
  setDimensions _ _ _ := rfl
  firstScan _ := rfl
  endScan _ _ := rfl
  withDecoding _ _ := rfl
  enterFault _ _ _ := rfl
  softReset _ := rfl

/-- Settles O51: none of the writes that instructions are built of touches the parameters or what belongs to the host. -/
theorem instructionsKeepHostAndParameters : Obligations.InstructionsKeepHostAndParameters := by
  unfold Obligations.InstructionsKeepHostAndParameters
  intro i s t e
  have h := host_closedUnderExec.exec e
  simp only [State.host, Prod.mk.injEq] at h
  exact h

end Sys2Proof.Machine
end

section
/-! The control commands (O7), what a hard reset leaves (O10, O52), the converter commands (O12, O14), and the host's register
port (O58). -/

namespace Sys2Proof.Machine

open Sys2Proof.Spec

/-! ### NOP and SRST -/

/-- NOP between commands, in the fault state too (R151). -/
theorem exec_nop {s : State} (h : s.decoding = none) : exec .nop s = .next s := by
  by_cases he : s.err = 0#4
  · exact command_ready ⟨h, he⟩
  · exact command_faulted h he

theorem State.softReset_registersReset (s : State) : RegistersReset s.softReset :=
  ⟨rfl, rfl, rfl, rfl, rfl, rfl, rfl, rfl, rfl, rfl, rfl, rfl, rfl, rfl⟩

/-- Settles O7: NOP has no pseudocode to run, and SRST does not look at the fault state. -/
theorem controlCommands : Obligations.ControlCommands := by
  unfold Obligations.ControlCommands
  exact ⟨rfl, rfl, fun s h => ⟨exec_nop h, s.softReset, exec_srst h, s.softReset_registersReset, rfl⟩⟩

/-! ### Hard reset -/

theorem State.resetWith_registersReset (c : Config) (n : Nat) (p : List HostAction) :
    RegistersReset (State.resetWith c n p) :=
  ⟨rfl, rfl, rfl, rfl, rfl, rfl, rfl, rfl, rfl, rfl, rfl, rfl, rfl, rfl⟩

theorem State.resetWith_ready (c : Config) (n : Nat) (p : List HostAction) : (State.resetWith c n p).Ready := ⟨rfl, rfl⟩

/-- Between commands, with the host's list not yet over, a step is the host's next action, its index moved on by one
(R28). -/
theorem step_action {s : State} {a : HostAction} (h : s.decoding = none) (ha : s.program[s.pc]? = some a) :
    step s = perform a { s with pc := s.pc + 1 } := by
  rw [step_idle h, hostStep, ha]

/-- Settles O10: the action answers the reset state itself but for the host's index and last value read. -/
theorem hardResetValues : Obligations.HardResetValues := by
  unfold Obligations.HardResetValues
  refine ⟨fun c n p => ⟨State.resetWith_registersReset c n p, State.resetWith_ready c n p⟩, fun s h ha => ?_⟩
  exact ⟨_, step_action h ha, State.resetWith_registersReset s.cfg (s.powerOns + 1) s.program,
    State.resetWith_ready s.cfg (s.powerOns + 1) s.program, rfl, rfl, rfl, rfl, rfl, rfl⟩

/-- The invariant looks at neither the host's index nor the value last read, so the state after a hard reset meets it as the
hard reset of a running machine does. -/
theorem State.resetWith_inv (c : Config) (n : Nat) (p : List HostAction) : (State.resetWith c n p).Inv :=
  { (State.resetWith c n p).hardReset_inv with }

/-- A memory that lists nothing lists no cell outside its capacity. -/
theorem State.resetWith_cellsInside (c : Config) (n : Nat) (p : List HostAction) : (State.resetWith c n p).CellsInside :=
  ⟨rfl, rfl, rfl⟩

/-- Settles O52: every register is 0 and every memory lists nothing. -/
theorem invariantHoldsAtReset : Obligations.InvariantHoldsAtReset := by
  unfold Obligations.InvariantHoldsAtReset
  exact fun c n p => ⟨State.resetWith_inv c n p, State.resetWith_cellsInside c n p⟩

/-! ### The converter commands -/

/-- A channel that is not negative has one mantissa, whatever the free value (R85, log 9). -/
theorem mantissa_nonneg {neg : NegMode} {free : Byte} {xmax : Nat} {w : Word} (h : signBit w = false) :
    mantissa neg free xmax w = BitVec.ofNat 8 (scaledMagnitude xmax w) := by
  unfold mantissa
  rw [h, if_neg Bool.false_ne_true]

/-- A negative gray value is below the threshold, so no free value of a negative infinity gets into a gray quad. -/
theorem quantize_gray (neg : NegMode) (v : Word) :
    (quantize neg v v v).g = (quantize neg v v v).r ∧ (quantize neg v v v).b = (quantize neg v v v).r := by
  unfold quantize
  by_cases hk : maxPattern v v v < threshold
  · simp only [hk, if_true, and_self]
  · have hs : signBit v = false := by
      by_contra hs
      rw [Bool.not_eq_false] at hs
      simp [maxPattern, maxKey, hs, threshold] at hk
    simp only [hk, if_false, mantissa_nonneg hs, and_self]

theorem floatToRgbe_gray (c : Config) (w : Word) :
    (floatToRgbe c w w w).g = (floatToRgbe c w w w).r ∧ (floatToRgbe c w w w).b = (floatToRgbe c w w w).r :=
  quantize_gray c.negMode (operand c w)

/-- The gray quad of R92 is the quad of three equal operands. -/
theorem State.packGray_eq (s : State) : s.packGray = floatToRgbe s.cfg s.f0 s.f0 s.f0 := by
  obtain ⟨hg, hb⟩ := floatToRgbe_gray s.cfg s.f0
  rw [State.packGray]
  exact congrArg₂ (fun g b => Quad.mk _ g b _) hg.symm hb.symm

/-- Settles O12: a ready machine runs the one write of `Q`; for F2RE the three mantissas are those of one operand. -/
theorem packCommandsWriteQ : Obligations.PackCommandsWriteQ := by
  unfold Obligations.PackCommandsWriteQ
  refine ⟨rfl, rfl, fun s h => ⟨command_ready h, ?_, floatToRgbe_gray s.cfg s.f0⟩⟩
  rw [← s.packGray_eq]
  exact command_ready h

/-- Settles O14: a ready machine runs the one write of `F0`, `F1` and `F2`. -/
theorem unpackCommandsWriteFloats : Obligations.UnpackCommandsWriteFloats := by
  unfold Obligations.UnpackCommandsWriteFloats
  exact ⟨rfl, rfl, fun s h => ⟨command_ready h, command_ready h⟩⟩

/-! ### The host's register port -/

/-- Between commands `STATUS` reads with `BUSY` 0 (R24). -/
theorem State.statusWord_idle {s : State} (h : s.decoding = none) : s.statusWord = s.status &&& 0x1F#32 := by
  rw [State.statusWord, busy_eq_false h, if_neg Bool.false_ne_true, BitVec.or_zero]

/-- `CMD` and the indices that name no register read 0 (R153). -/
theorem State.readReg_unnamed {idx : Nat} (h : 0x0E ≤ idx) (s : State) : s.readReg idx = 0#32 := by
  unfold State.readReg
  split
  case h_15 => rfl
  all_goals omega

/-- A write to `STATUS`, to `ECMD` or to an index that names no register is dropped (R153). -/
theorem State.writeReg_dropped {idx : Nat} (h : 0x0C ≤ idx) (v : Word) (s : State) : s.writeReg idx v = s := by
  unfold State.writeReg
  split
  case h_13 => rfl
  all_goals omega

/-- A host read changes nothing but the value last returned (R153, log 4). -/
theorem perform_readReg (idx : Nat) (s : State) :
    perform (.readReg idx) s = .next { s with readData := s.readReg idx } := rfl

/-- A host write to any index but that of `CMD` (R153). -/
theorem perform_writeReg {idx : Nat} (h : idx ≠ cmdIndex) (v : Word) (s : State) :
    perform (.writeReg idx v) s = .next (s.writeReg idx v) := if_neg h

/-- What `MODE` takes of a value written (R17). -/
theorem and_one_eq_mod (v : Word) : v &&& 1#32 = BitVec.ofNat 32 (v.toNat % 2) := by
  apply BitVec.eq_of_toNat_eq
  have hlt : v.toNat % 2 < 2 ^ 32 := by omega
  rw [BitVec.toNat_and]
  exact (Nat.and_one_is_mod v.toNat).trans (Nat.mod_eq_of_lt hlt).symm

/-- What `SPOS` and `SLEN` take of a value written (R19). -/
theorem State.clampToStream_eq_min (v : Word) (s : State) :
    s.clampToStream v = BitVec.ofNat 32 (min v.toNat s.cfg.strBytes.toNat) := by
  unfold State.clampToStream
  split
  · rename_i h
    rw [Nat.min_eq_left h, BitVec.ofNat_toNat, BitVec.setWidth_eq]
  · rename_i h
    rw [Nat.min_eq_right (by omega), BitVec.ofNat_toNat, BitVec.setWidth_eq]

/-- Settles O58: index by index; the write of `MODE`, `SPOS` and `SLEN` and the read of `STATUS` are not plain. -/
theorem hostRegisterPort : Obligations.HostRegisterPort := by
  unfold Obligations.HostRegisterPort
  intro s v h
  have hstatus : perform (.readReg 0x0C) s = .next { s with readData := s.status &&& 0x1F#32 } := by
    rw [← State.statusWord_idle h]; exact perform_readReg 0x0C s
  refine ⟨⟨rfl, rfl, rfl, rfl, rfl, rfl, rfl, rfl, rfl, rfl, rfl, rfl, hstatus, rfl, fun idx hi => ?_⟩,
    ⟨rfl, rfl, rfl, rfl, rfl, rfl, ?_, rfl, rfl, rfl, ?_, ?_, rfl, rfl, fun idx hi => ?_⟩⟩
  · rw [← s.readReg_unnamed hi]; exact perform_readReg idx s
  · rw [← and_one_eq_mod]; rfl
  · rw [← s.clampToStream_eq_min]; rfl
  · rw [← s.clampToStream_eq_min]; rfl
  · have hcmd : idx ≠ cmdIndex := Nat.ne_of_gt hi
    exact (perform_writeReg hcmd v s).trans (congrArg _ (State.writeReg_dropped (Nat.le_trans (by decide) hi) v s))

end Sys2Proof.Machine
end

section
/-! One step, said for each way a machine can stand (O6): between commands the host's next action, inside a decode command the
next token; and the pixel that a stream which ends inside it leaves behind. -/

namespace Sys2Proof.Machine

open Sys2Proof.Spec

/-! ### A step between commands -/

theorem step_exhausted {s : State} (h : s.decoding = none) (hp : s.program.length ≤ s.pc) : step s = .next s := by
  rw [step_idle h, hostStep, List.getElem?_eq_none hp]

/-- A host write to `CMD` is `Execute(w)` (R26, R153). -/
theorem perform_writeCmd (w : Word) (s : State) : perform (.writeReg 0x0E w) s = execute w s := rfl

theorem execute_decoded {w : Word} {i : Instr} (h : decode (.command w) = .ok i) (s : State) : execute w s = exec i s := by
  rw [execute, h]

/-! ### A step that fetches a whole token -/

/-- The step inside a plane row reads the control byte at `SPOS` and runs its token, or raises TruncatedData at the end of the
stream (R136). -/
theorem step_row_fetch {c : DecodeCommand} {dst : Option Nat} {done : Nat} {rest : List (Option Nat)} {s : State}
    (h : s.decoding = some ⟨c, .row dst done rest⟩) (hd : s.decodable ⟨c, .row dst done rest⟩ = true) :
    step s =
      if s.spos.toNat < s.slen.toNat then exec (decodeControl (s.readStr s.spos.toNat)) (s.moveCursor 1)
      else .next (s.enterFault .truncatedData c.word) := by
  rw [step, h]
  simp only [decodeStep, hd, if_true]
  rw [getByte_apply]
  by_cases hb : s.spos.toNat < s.slen.toNat
  · rw [if_pos hb, if_pos hb]; rfl
  · rw [if_neg hb, if_neg hb]

theorem quadStep_whole {c : DecodeCommand} {x : Nat} {code : Word → Code} {s : State}
    (h : s.spos.toNat + 4 ≤ s.slen.toNat) :
    quadStep c x code s = execCode (code s.nextQuad.word) (s.moveCursor 4) := by
  rw [quadStep, if_pos h, getFour_ok h]

/-- The step at the head of a scanline runs what the next four bytes decode to there (R139). -/
theorem step_head_fetch {c : DecodeCommand} {s : State} (h : s.decoding = some ⟨c, .head⟩)
    (hd : s.decodable ⟨c, .head⟩ = true) (hb : s.spos.toNat + 4 ≤ s.slen.toNat) :
    step s = exec (decodeHead s.nextQuad.word) (s.moveCursor 4) := by
  rw [step, h]
  simp only [decodeStep, hd, if_true]
  exact quadStep_whole hb

/-- The step inside a flat scanline runs the quad that the next four bytes are (R141). -/
theorem step_flat_fetch {c : DecodeCommand} {x : Nat} {s : State} (h : s.decoding = some ⟨c, .flat x⟩)
    (hd : s.decodable ⟨c, .flat x⟩ = true) (hb : s.spos.toNat + 4 ≤ s.slen.toNat) :
    step s = exec (decodePixel s.nextQuad.word) (s.moveCursor 4) := by
  rw [step, h]
  simp only [decodeStep, hd, if_true]
  exact quadStep_whole hb

/-- Four bytes that come next in the stream are its next quad. -/
theorem nextQuad_of_next {b0 b1 b2 b3 : Byte} {s : State} (h : Next s [b0, b1, b2, b3]) :
    s.nextQuad = ⟨b0, b1, b2, b3⟩ := by
  obtain ⟨hbytes, -⟩ := h
  simp only [State.nextQuad, Quad.mk.injEq]
  exact ⟨hbytes 0 (Nat.le_add_left 1 3), hbytes 1 (Nat.le_add_left 2 2), hbytes 2 (Nat.le_add_left 3 1),
    hbytes 3 (Nat.le_refl 4)⟩

/-! ### The cells one flat pixel writes -/

/-- Cells at place `x` of no destination stay as they are. -/
theorem State.readPln_storeFlat_of_ne {x a : Nat} {ds : List (Option Nat)} (h : ∀ d, some d ∈ ds → a ≠ d + x)
    (vs : List Byte) (s : State) : (s.storeFlat x ds vs).readPln a = s.readPln a := by
  induction ds generalizing vs s with
  | nil => cases vs <;> rfl
  | cons d ds ih =>
    have hds : ∀ e, some e ∈ ds → a ≠ e + x := fun e he => h e (List.mem_cons_of_mem d he)
    cases vs with
    | nil => cases d <;> rfl
    | cons v vs =>
      cases d with
      | none => exact ih hds vs s
      | some b => exact (ih hds vs _).trans ((s.readPln_writePln _ _ v).trans (if_neg (h b List.mem_cons_self)))

/-- No two destinations are one row; any number of them can be the spec's `NONE`. -/
def DistinctRows (ds : List (Option Nat)) : Prop := ds.Pairwise fun p q => ∀ d, p = some d → q ≠ some d

/-- The cell at place `x` of destination `j` gets byte `j`, as far as there is one. -/
theorem State.readPln_storeFlat_at {x j d : Nat} {ds : List (Option Nat)} (hds : DistinctRows ds)
    (hj : ds[j]? = some (some d)) (vs : List Byte) (s : State) :
    (s.storeFlat x ds vs).readPln (d + x) = (vs[j]?).getD (s.readPln (d + x)) := by
  induction ds generalizing j vs s with
  | nil => nomatch hj
  | cons e es ih =>
    obtain ⟨hne, hes⟩ := List.pairwise_cons.mp hds
    cases vs with
    | nil => cases e <;> rfl
    | cons v vs =>
      cases j with
      | zero =>
        obtain rfl : e = some d := Option.some.inj hj
        have hrest : ∀ d', some d' ∈ es → d + x ≠ d' + x := fun d' hd' heq =>
          hne _ hd' d rfl (congrArg some (Nat.add_right_cancel heq).symm)
        exact (State.readPln_storeFlat_of_ne hrest vs _).trans (s.readPln_writePln_self (d + x) v)
      | succ j =>
        cases e with
        | none => exact ih hes hj vs s
        | some a =>
          have ha : d + x ≠ a + x := fun heq =>
            hne _ (List.mem_of_getElem? hj) a rfl (congrArg some (Nat.add_right_cancel heq))
          refine (ih hes hj vs _).trans ?_
          rw [s.readPln_writePln, if_neg ha]
          rfl

/-! ### The destinations of a scanline are rows of the image -/

/-- Two planes' rows have no cell in common (R22). -/
theorem State.rowBase_add_inj {k k' y x x' : Nat} {s : State} (hh : 0 < s.height.toNat) (hx : x < s.width.toNat)
    (hx' : x' < s.width.toNat) (e : s.rowBase k y + x = s.rowBase k' y + x') : k = k' ∧ x = x' := by
  have hp : s.width.toNat ≤ s.pixels := Nat.le_mul_of_pos_right _ hh
  have hlt : ∀ {a b : Nat}, a < b → a * s.pixels + s.pixels ≤ b * s.pixels := fun h =>
    (Nat.succ_mul _ _).symm.trans_le (Nat.mul_le_mul_right s.pixels h)
  simp only [State.rowBase] at e
  rcases Nat.lt_trichotomy k k' with h | rfl | h
  · have := hlt h; omega
  · exact ⟨rfl, by omega⟩
  · have := hlt h; omega

theorem State.destinations_rgb {s : State} (h : s.rgb = true) (y : Nat) :
    s.destinations y = [some (s.rowBase 0 y), some (s.rowBase 1 y), some (s.rowBase 2 y), some (s.rowBase 3 y)] := if_pos h

theorem State.destinations_gray {s : State} (h : s.rgb = false) (y : Nat) :
    s.destinations y = [some (s.rowBase 0 y), none, none, some (s.rowBase 1 y)] := if_neg (h ▸ Bool.false_ne_true)

theorem State.destinations_distinct {s : State} (hp : 0 < s.pixels) (y : Nat) : DistinctRows (s.destinations y) := by
  have hne : ∀ {k k' : Nat}, k < k' → s.rowBase k' y ≠ s.rowBase k y := fun h e =>
    Nat.ne_of_gt (Nat.mul_lt_mul_of_pos_right h hp) (Nat.add_right_cancel e)
  cases hr : s.rgb with
  | true => simp [DistinctRows, State.destinations_rgb hr, hne]
  | false => simp [DistinctRows, State.destinations_gray hr, hne]

theorem State.mem_destinations {s : State} {y d : Nat} (h : some d ∈ s.destinations y) :
    ∃ k, k < s.planes ∧ d = s.rowBase k y := by
  cases hr : s.rgb with
  | true =>
    simp only [State.destinations_rgb hr, List.mem_cons, Option.some.injEq, List.not_mem_nil, or_false] at h
    simp only [State.planes, hr, if_true]
    rcases h with rfl | rfl | rfl | rfl
    · exact ⟨0, by decide, rfl⟩
    · exact ⟨1, by decide, rfl⟩
    · exact ⟨2, by decide, rfl⟩
    · exact ⟨3, by decide, rfl⟩
  | false =>
    simp only [State.destinations_gray hr, List.mem_cons, Option.some.injEq, reduceCtorEq, List.not_mem_nil, or_false,
      false_or] at h
    simp only [State.planes, hr, Bool.false_eq_true, if_false]
    rcases h with rfl | rfl
    · exact ⟨0, by decide, rfl⟩
    · exact ⟨1, by decide, rfl⟩

/-- Stream plane `j`, if the mode keeps it as plane `k`, goes to the row of plane `k` (R140). -/
theorem State.destinations_kept {s : State} {k j : Nat} (h : (keptPlanes s)[k]? = some j) (y : Nat) :
    (s.destinations y)[j]? = some (some (s.rowBase k y)) := by
  cases hr : s.rgb with
  | true =>
    rw [keptPlanes, if_pos hr] at h
    rw [State.destinations_rgb hr]
    match k, h with
    | 0, rfl | 1, rfl | 2, rfl | 3, rfl => rfl
  | false =>
    rw [keptPlanes, hr, if_neg Bool.false_ne_true] at h
    rw [State.destinations_gray hr]
    match k, h with
    | 0, rfl | 1, rfl => rfl

/-- The bytes of one flat pixel are in the kept planes at place `x` (R140, R141). -/
theorem State.storeFlat_rowGot {s : State} {x : Nat} (hh : 0 < s.height.toNat) (hx : x < s.width.toNat) (y : Nat)
    (bs : List Byte) : RowGot (pixelGot x bs) y s (s.storeFlat x (s.destinations y) bs) := by
  intro k j x' hk hx'
  show (s.storeFlat x (s.destinations y) bs).readPln (s.rowBase k y + x') =
    (pixelGot x bs j x').getD (s.readPln (s.rowBase k y + x'))
  have hp : 0 < s.pixels := Nat.mul_pos (Nat.zero_lt_of_lt hx) hh
  unfold pixelGot
  by_cases he : x' = x
  · subst he
    rw [if_pos rfl]
    exact State.readPln_storeFlat_at (s.destinations_distinct hp y) (State.destinations_kept hk y) bs s
  · rw [if_neg he]
    refine State.readPln_storeFlat_of_ne (fun d hd heq => ?_) bs s
    obtain ⟨k', -, rfl⟩ := State.mem_destinations hd
    exact he (State.rowBase_add_inj hh hx' hx heq).2

/-- One flat pixel writes inside its row of the planes (R22). -/
theorem State.storeFlat_frame {s : State} {x y a : Nat} (hx : x < s.width.toNat) (ha : ¬ InRow s y a)
    (bs : List Byte) : (s.storeFlat x (s.destinations y) bs).readPln a = s.readPln a := by
  refine State.readPln_storeFlat_of_ne (fun d hd heq => ha ?_) bs s
  obtain ⟨k, hk, rfl⟩ := State.mem_destinations hd
  exact ⟨k, x, hk, hx, heq⟩

/-! ### A step where the stream ends inside a quad -/

theorem strSlice_of_rest {s : State} {bs : List Byte} (h : Rest s bs) :
    s.strSlice s.spos.toNat (s.slen.toNat - s.spos.toNat) = bs := by
  obtain ⟨hbytes, hlen⟩ := h
  rw [← hlen]
  exact State.strSlice_eq hbytes

/-- A pixel that the stream ends in: its first bytes are stored, then TruncatedData is raised (R141, R162). -/
theorem flatPixel_truncated {s : State} {bs : List Byte} (hlen : bs.length < 4) (hrest : Rest s bs) (x : Nat) :
    flatPixel x (s.destinations s.ycnt.toNat) s =
      .error .truncatedData ((s.storeFlat x (s.destinations s.ycnt.toNat) bs).moveCursor bs.length) := by
  have hle := hrest.2
  rw [flatPixel_apply, State.destinations_length, if_neg (by omega), strSlice_of_rest hrest, ← hle]

/-- A scanline in which fewer than four bytes are left is not marked (R139). -/
theorem isMarker_truncated {s : State} {bs : List Byte} (hlen : bs.length < 4) (hrest : Rest s bs) :
    isMarker s = false := by
  have hle := hrest.2
  rw [Bool.eq_false_iff]
  intro hm
  have hb := ((isMarker_iff s).mp hm).1
  omega

/-- The step that reads a pixel, at a head or inside a flat scanline, where the stream ends in it. -/
theorem step_truncated {c : DecodeCommand} {p : DecodePhase} {x : Nat} {s : State} {bs : List Byte}
    (hlen : bs.length < 4) (hrest : Rest s bs) (hp : p = .head ∧ x = 0 ∨ p = .flat x) (h : s.decoding = some ⟨c, p⟩)
    (hd : s.decodable ⟨c, p⟩ = true) :
    step s = .next (((s.storeFlat x (s.destinations s.ycnt.toNat) bs).moveCursor bs.length).enterFault
      .truncatedData c.word) := by
  have hpix := flatPixel_truncated hlen hrest x
  rcases hp with ⟨rfl, rfl⟩ | rfl
  · rw [step_head_flat h hd (isMarker_truncated hlen hrest), bind_error hpix]; rfl
  · rw [step_flat h hd, bind_error hpix]; rfl

/-- The pixel a step is to read is one of the scanline, which is one of the image. -/
theorem State.decodable_pixel {c : DecodeCommand} {p : DecodePhase} {x : Nat} {s : State}
    (hp : p = .head ∧ x = 0 ∨ p = .flat x) (hd : s.decodable ⟨c, p⟩ = true) :
    x < s.width.toNat ∧ 0 < s.height.toNat := by
  rcases hp with ⟨rfl, rfl⟩ | rfl
  · obtain ⟨hw, hy⟩ := State.decodable_geometry hd
    exact ⟨hw, Nat.zero_lt_of_lt hy⟩
  · obtain ⟨hhead, hx⟩ := State.decodable_flat.mp hd
    exact ⟨hx, Nat.zero_lt_of_lt (State.decodable_geometry hhead).2⟩

/-- Settles O6: a step is the host's next action, or the token at `SPOS`, or what is left of a quad that the stream ends in. -/
theorem stepRunsDecodedInstruction : Obligations.StepRunsDecodedInstruction := by
  unfold Obligations.StepRunsDecodedInstruction
  refine ⟨fun s => step_exhausted, fun s a => step_action, fun s w h hw => ?_, fun s w i h hw hi => ?_,
    fun s c dst done rest => step_row_fetch, fun s c b0 b1 b2 b3 hnext => ⟨fun h hd => ?_, fun x h hd => ?_⟩,
    fun s c p x bs hlen hrest hp h hd => ?_⟩
  · exact (step_action h hw).trans (perform_writeCmd w _)
  · exact (step_action h hw).trans ((perform_writeCmd w _).trans (execute_decoded hi _))
  · have hstep := step_head_fetch h hd hnext.2
    rw [nextQuad_of_next hnext] at hstep
    exact hstep
  · have hstep := step_flat_fetch h hd hnext.2
    rw [nextQuad_of_next hnext] at hstep
    exact hstep
  · obtain ⟨hx, hh⟩ := State.decodable_pixel hp hd
    have honly : PlanesOnly s (s.storeFlat x (s.destinations s.ycnt.toNat) bs) := s.storeFlat_only x _ bs
    exact ⟨(s.storeFlat x (s.destinations s.ycnt.toNat) bs).moveCursor bs.length,
      congrArg (State.moveCursor bs.length) honly, State.storeFlat_rowGot hh hx s.ycnt.toNat bs,
      fun a ha => State.storeFlat_frame hx ha bs, step_truncated hlen hrest hp h hd⟩

end Sys2Proof.Machine
end

section
/-! No step stores outside a memory (O54). `STR` is written by `PutByte` alone, which looks for room itself, so its bound is one
more relation that every instruction keeps. Writes of `PLN` and `IMG` have no guard of their own: their bound comes from the
checks before them, which fix the geometry that the rest of the command runs under. -/

namespace Sys2Proof.Machine

open Sys2Proof.Spec

/-! ### What a piece of pseudocode preserves -/

/-- If `P` holds before `x`, it holds after, whether `x` runs to its end or raises. -/
abbrev Op.Preserves {α : Type} (P : State → Prop) (x : Op α) : Prop := Op.Keeps (fun s t => P s → P t) x

section Preserves

variable {P : State → Prop} {α β : Type}

theorem preserves_chains : Chains fun s t => P s → P t := ⟨fun _ => id, fun _ _ _ h1 h2 h => h2 (h1 h)⟩

/-- What follows a first piece may use that it ran to its end, and the state it left. -/
theorem Op.final_bind {x : Op α} {k : α → Op β} {s : State} (hx : P (x.final s))
    (hk : ∀ a t, x s = .ok a t → P t → P ((k a).final t)) : P ((x >>= k).final s) := by
  cases e : x s with
  | ok a t =>
    have h := hk a t e (final_ok e ▸ hx)
    rwa [Op.final, bind_ok e]
  | error f t => rwa [final_error (bind_error e), ← final_error e]

/-- What follows a look at the state may use that `P` holds of it. -/
theorem Op.final_reading {g : State → α} {k : α → Op β} {s : State} (hk : P ((k (g s)).final s)) :
    P ((reading g k).final s) := by
  rwa [Op.final, reading_apply]

/-- What follows a check may use that the check passed. -/
theorem Op.preserves_check {x : Op Unit} {p : State → Prop} [DecidablePred p] {f : FaultCode} {k : Unit → Op β}
    (hx : ∀ s, x s = if p s then .ok () s else .error f s) (hk : ∀ s, p s → P s → P ((k ()).final s)) :
    Op.Preserves P (x >>= k) := by
  intro s h
  rw [Op.final, bind_check (hx s)]
  by_cases hp : p s
  · rw [if_pos hp]; exact hk s hp h
  · rw [if_neg hp]; exact h

/-- A turn of a loop may use that its index is one of the loop's. -/
theorem Op.preserves_forUp {body : Nat → Op Unit} {n i : Nat}
    (h : ∀ j, i ≤ j → j < i + n → Op.Preserves P (body j)) : Op.Preserves P (forUp body n i) := by
  induction n generalizing i with
  | zero => exact Op.keeps_pure preserves_chains ()
  | succ n ih =>
    exact Op.keeps_bind preserves_chains (h i (Nat.le_refl i) (by omega)) fun _ =>
      ih fun j hi hj => h j (by omega) (by omega)

end Preserves

/-! ### `STR` -/

/-- `PutByte` looks for room (R48), and nothing else an instruction does writes `STR`. -/
theorem strInside_closedUnderExec :
    ClosedUnderExec fun s t =>
      Memory.below s.cfg.strBytes.toNat s.str = true → Memory.below t.cfg.strBytes.toNat t.str = true where
  toChains := preserves_chains
  getByte f s h := by have k := getByte_keeps f s; unfold CursorOnly at k; rw [k]; exact h
  putByte b s h := by
    by_cases hb : s.spos.toNat < s.cfg.strBytes.toNat
    · rw [final_ok (putByte_ok hb)]; exact Memory.below_store b h hb
    · rw [final_error (putByte_error hb)]; exact h
  writeImg _ _ _ := id
  writePln _ _ _ := id
  setQuad _ _ := id
  setFloats _ _ _ _ := id
  setDimensions _ _ _ := id
  firstScan _ := id
  endScan _ _ := id
  withDecoding _ _ := id
  enterFault _ _ _ := id
  softReset _ := id

/-! ### `PLN` and `IMG` under a geometry -/

/-- No cell of `IMG` or `PLN` is listed at or above the capacity (R20, R45). -/
structure State.PixelsInside (s : State) : Prop where
  img : Memory.below s.cfg.imgWords s.img = true
  pln : Memory.below s.cfg.plnBytes s.pln = true

/-- The state `s` stands under the geometry and the parameters of `g`, the state in which the command was checked, and lists no
cell of `IMG` or `PLN` outside. -/
structure State.FitsAs (g s : State) : Prop extends State.PixelsInside s where
  width : s.width = g.width
  height : s.height = g.height
  mode : s.mode = g.mode
  cfg : s.cfg = g.cfg

namespace State.FitsAs

variable {g s : State}

theorem self (h : s.PixelsInside) : State.FitsAs s s := { h with width := rfl, height := rfl, mode := rfl, cfg := rfl }

theorem pixels (h : g.FitsAs s) : s.pixels = g.pixels := by rw [State.pixels, h.width, h.height]; rfl

theorem rgb (h : g.FitsAs s) : s.rgb = g.rgb := by rw [State.rgb, h.mode]; rfl

theorem planes (h : g.FitsAs s) : s.planes = g.planes := by rw [State.planes, h.rgb]; rfl

theorem rowInside (h : g.FitsAs s) (d : Option Nat) : s.rowInside d = g.rowInside d := by
  cases d with
  | none => rfl
  | some a => rw [State.rowInside, h.width, h.planes, h.pixels]; rfl

theorem writeImg (h : g.FitsAs s) {a : Nat} (ha : a < g.cfg.imgWords) (v : Word) : g.FitsAs (s.writeImg a v) :=
  { h with img := Memory.below_store v h.img (h.cfg ▸ ha) }

theorem writePln (h : g.FitsAs s) {a : Nat} (ha : a < g.cfg.plnBytes) (v : Byte) : g.FitsAs (s.writePln a v) :=
  { h with pln := Memory.below_store v h.pln (h.cfg ▸ ha) }

end State.FitsAs

/-- Writing the stream and the end of a scanline touch neither `IMG` nor `PLN`. -/
theorem ScanOutOnly.fitsAs {g s t : State} (h : ScanOutOnly s t) (hs : g.FitsAs s) : g.FitsAs t := by
  unfold ScanOutOnly at h; rw [h]; exact { hs with }

/-- Reading the header touches neither `IMG` nor `PLN`, but it changes the geometry. -/
theorem HeaderInOnly.pixelsInside {s t : State} (h : HeaderInOnly s t) (hs : s.PixelsInside) : t.PixelsInside := by
  unfold HeaderInOnly at h; rw [h]; exact { hs with }

theorem fitsAs_of_scanOut {α : Type} {g : State} {x : Op α} (hx : Op.Keeps ScanOutOnly x) : Op.Preserves g.FitsAs x :=
  hx.weaken fun _ _ h => h.fitsAs

theorem fitsAs_of_stream {α : Type} {g : State} {x : Op α} (hx : Op.Keeps StreamOnly x) : Op.Preserves g.FitsAs x :=
  fitsAs_of_scanOut (hx.weaken fun _ _ h => h.scanOut)

theorem getByte_fitsAs (g : State) (f : FaultCode) : Op.Preserves g.FitsAs (getByte f) :=
  fitsAs_of_stream ((getByte_keeps f).weaken fun _ _ h => h.stream)

/-- What runs after `CheckGeom` runs under the geometry that was checked (R166). -/
theorem preserves_checkGeom {planes : State → Nat} {useImg : Bool} {k : Unit → Op Unit}
    (hk : ∀ g, planes g * g.pixels ≤ g.cfg.plnBytes → (useImg = true → g.pixels * g.channels ≤ g.cfg.imgWords) →
      Op.Preserves g.FitsAs (k ())) :
    Op.Preserves State.PixelsInside (checkGeom planes useImg >>= k) :=
  Op.preserves_check (checkGeom_apply planes useImg) fun g hg h =>
    have ⟨_, _, hp, hi⟩ := (State.geomFits_iff _ _ g).mp hg
    (hk g hp hi g (.self h)).toPixelsInside

/-! ### The plane buffer -/

section PlaneBuffer

variable {g : State}

theorem State.FitsAs.storePair {s : State} {p : Nat} (h : g.FitsAs s) (hp : p < g.pixels)
    (hg : 2 * g.pixels ≤ g.cfg.plnBytes) (q : Quad) : g.FitsAs (s.storePair p q) := by
  rw [State.storePair, h.pixels]
  exact (h.writePln (by omega) _).writePln (by omega) _

theorem State.FitsAs.storeQuad {s : State} {p : Nat} (h : g.FitsAs s) (hp : p < g.pixels)
    (hg : 4 * g.pixels ≤ g.cfg.plnBytes) (q : Quad) : g.FitsAs (s.storeQuad p q) := by
  rw [State.storeQuad, h.pixels]
  exact (((h.writePln (by omega) _).writePln (by omega) _).writePln (by omega) _).writePln (by omega) _

theorem State.FitsAs.quantizePixel {s : State} {p : Nat} (h : g.FitsAs s) (hp : p < g.pixels)
    (hg : g.planes * g.pixels ≤ g.cfg.plnBytes) : g.FitsAs (s.quantizePixel p) := by
  rw [State.quantizePixel, h.rgb]
  unfold State.planes at hg
  cases hr : g.rgb with
  | true => rw [hr, if_pos rfl] at hg; exact h.storeQuad hp hg _
  | false => rw [hr, if_neg Bool.false_ne_true] at hg; exact h.storePair hp hg _

theorem State.FitsAs.unpackPixel {s : State} {p : Nat} (h : g.FitsAs s) (hp : p < g.pixels)
    (hg : g.pixels * g.channels ≤ g.cfg.imgWords) : g.FitsAs (s.unpackPixel p) := by
  rw [State.unpackPixel, h.rgb]
  unfold State.channels at hg
  cases hr : g.rgb with
  | true =>
    rw [hr, if_pos rfl] at hg
    exact ((h.writeImg (by omega) _).writeImg (by omega) _).writeImg (by omega) _
  | false =>
    rw [hr, if_neg Bool.false_ne_true] at hg
    exact h.writeImg (by omega) _

/-- A loop of plain writes over the pixels of the image. -/
theorem preserves_pixels {f : Nat → State → State}
    (h : ∀ p s, p < g.pixels → g.FitsAs s → g.FitsAs (f p s)) :
    Op.Preserves g.FitsAs (reading State.pixels fun n => forUp (fun p => update (f p)) n 0) := fun s hs =>
  Op.final_reading (Op.preserves_forUp (fun p _ hp => Op.keeps_update fun t => h p t (by rw [← hs.pixels]; omega)) s hs)

theorem quantizeImage_fitsAs (hg : g.planes * g.pixels ≤ g.cfg.plnBytes) : Op.Preserves g.FitsAs quantizeImage :=
  preserves_pixels fun _ _ hp h => h.quantizePixel hp hg

theorem unpackImage_fitsAs (hg : g.pixels * g.channels ≤ g.cfg.imgWords) : Op.Preserves g.FitsAs unpackImage :=
  preserves_pixels fun _ _ hp h => h.unpackPixel hp hg

/-- A pixel inside the image has its index inside a plane (R22, R112). -/
theorem State.pixelIndex_lt {s : State} (hx : s.px.toNat < s.width.toNat) (hy : s.py.toNat < s.height.toNat) :
    s.pixelIndex < s.pixels := by
  have h : (s.py.toNat + 1) * s.width.toNat ≤ s.height.toNat * s.width.toNat := Nat.mul_le_mul_right _ hy
  rw [Nat.succ_mul] at h
  rw [State.pixelIndex, State.pixels, Nat.mul_comm s.width.toNat]
  omega

/-- The cells INS_RGBE and INS_RE write, after their two checks. -/
theorem preserves_checkPixel {f : State → State}
    (h : ∀ s, s.pixelIndex < g.pixels → g.FitsAs s → g.FitsAs (f s)) :
    Op.Preserves g.FitsAs (checkPixel >>= fun _ => update f) :=
  Op.preserves_check checkPixel_apply fun s hp hs => h s (hs.pixels ▸ State.pixelIndex_lt hp.1 hp.2) hs

end PlaneBuffer

/-! ### The scanline decoder -/

/-- A scanline that is decoded to its end moves `YCNT` on by one (R141). -/
theorem decodeScan_ycnt {s t : State} (e : decodeScan s = .ok () t) : t.ycnt = s.ycnt + 1#32 := by
  have hk := decodeScanAs_keeps (isMarker s) (s.destinations s.ycnt.toNat) s
  rw [decodeScan, reading_apply, bind_apply] at e
  split at e
  · rename_i u hu
    rw [final_ok hu, RowInOnly] at hk
    injection e with _ e
    rw [← e, State.endScan_ycnt, hk]
  · nomatch e

section Decoder

variable {g : State} (hg : g.planes * g.pixels ≤ g.cfg.plnBytes)

include hg

/-- A byte at a place inside a row that is inside the planes. -/
theorem storeAt_fitsAs {dst : Option Nat} {i : Nat} (hd : g.rowInside dst = true) (hi : i < g.width.toNat) (v : Byte) :
    Op.Preserves g.FitsAs (storeAt dst i v) := by
  cases dst with
  | none => exact Op.keeps_pure preserves_chains ()
  | some a =>
    have ha : a + g.width.toNat ≤ g.planes * g.pixels := of_decide_eq_true hd
    exact Op.keeps_update fun s hs => hs.writePln (by omega) v

/-- The length check of a run keeps its bytes inside the row (R136). -/
theorem controlRun_fitsAs {dst : Option Nat} (hd : g.rowInside dst = true) (b : Byte) (done : Nat) :
    Op.Preserves g.FitsAs (controlRun b dst done) := by
  unfold controlRun
  split
  · exact Op.keeps_raise preserves_chains _
  · split
    · refine Op.preserves_check (checkRun_apply done _) fun s hn hs => ?_
      rw [hs.width] at hn
      exact Op.keeps_bind preserves_chains (getByte_fitsAs g _)
        (fun v => Op.preserves_forUp fun j _ hj => storeAt_fitsAs hg hd (by omega) v) s hs
    · refine Op.preserves_check (checkRun_apply done _) fun s hn hs => ?_
      rw [hs.width] at hn
      exact Op.preserves_forUp (fun j _ hj => Op.keeps_bind preserves_chains (getByte_fitsAs g _)
        fun v => storeAt_fitsAs hg hd (by omega) v) s hs

theorem decodeRuns_fitsAs {dst : Option Nat} (hd : g.rowInside dst = true) (n done : Nat) :
    Op.Preserves g.FitsAs (decodeRuns dst n done) := by
  induction n generalizing done with
  | zero => exact Op.keeps_pure preserves_chains ()
  | succ n ih =>
    refine Op.keeps_reading fun more => ?_
    cases more with
    | true =>
      have hrun : Op.Preserves g.FitsAs (decodeRun dst done) :=
        Op.keeps_bind preserves_chains (getByte_fitsAs g _) fun b =>
          Op.keeps_bind preserves_chains (controlRun_fitsAs hg hd b done) fun _ => Op.keeps_pure preserves_chains _
      exact Op.keeps_bind preserves_chains hrun fun m => ih (done + m)
    | false => exact Op.keeps_pure preserves_chains ()

theorem rleDecodeRow_fitsAs {dst : Option Nat} (hd : g.rowInside dst = true) :
    Op.Preserves g.FitsAs (rleDecodeRow dst) := Op.keeps_reading fun w => decodeRuns_fitsAs hg hd w 0

theorem decodeRows_fitsAs {ds : List (Option Nat)} (hds : ∀ d ∈ ds, g.rowInside d = true) :
    Op.Preserves g.FitsAs (decodeRows ds) := by
  induction ds with
  | nil => exact Op.keeps_pure preserves_chains ()
  | cons d ds ih =>
    rw [List.forall_mem_cons] at hds
    exact Op.keeps_bind preserves_chains (rleDecodeRow_fitsAs hg hds.1) fun _ => ih hds.2

theorem flatPixel_fitsAs {x : Nat} (hx : x < g.width.toNat) {ds : List (Option Nat)}
    (hds : ∀ d ∈ ds, g.rowInside d = true) : Op.Preserves g.FitsAs (flatPixel x ds) := by
  induction ds with
  | nil => exact Op.keeps_pure preserves_chains ()
  | cons d ds ih =>
    rw [List.forall_mem_cons] at hds
    exact Op.keeps_bind preserves_chains (getByte_fitsAs g _) fun v =>
      Op.keeps_bind preserves_chains (storeAt_fitsAs hg hds.1 hx v) fun _ => ih hds.2

theorem decodeScanAs_fitsAs (b : Bool) {ds : List (Option Nat)} (hds : ∀ d ∈ ds, g.rowInside d = true) :
    Op.Preserves g.FitsAs (decodeScanAs b ds) := by
  cases b with
  | true =>
    exact Op.keeps_bind preserves_chains (fitsAs_of_stream (skipMarker_keeps.weaken fun _ _ h => h.stream))
      fun _ => decodeRows_fitsAs hg hds
  | false =>
    refine fun s hs => Op.final_reading (Op.preserves_forUp (fun x _ hx => ?_) s hs)
    simp only [hs.width, Nat.zero_add] at hx
    exact flatPixel_fitsAs hg hx hds

/-- A scanline of the image is decoded into rows that are inside the planes (R140). -/
theorem decodeScan_fitsAs {s : State} (hs : g.FitsAs s) (hy : s.ycnt.toNat < s.height.toNat) :
    g.FitsAs (decodeScan.final s) := by
  have hds : ∀ d ∈ s.destinations s.ycnt.toNat, g.rowInside d = true := fun d hd =>
    hs.rowInside d ▸ State.destinations_inside hy d hd
  refine Op.final_reading ?_
  exact Op.keeps_bind preserves_chains (decodeScanAs_fitsAs hg (isMarker s) hds)
    (fun _ => Op.keeps_update (g := State.endScan _) fun _ ht => { ht with }) s hs

/-- As many scanlines as are left of the image. -/
theorem decodeScans_fitsAs {n : Nat} {s : State} (hs : g.FitsAs s) (hy : s.ycnt.toNat + n ≤ g.height.toNat) :
    g.FitsAs ((times decodeScan n).final s) := by
  induction n generalizing s with
  | zero => exact hs
  | succ n ih =>
    have hlt : s.ycnt.toNat < g.height.toNat := by omega
    refine Op.final_bind (decodeScan_fitsAs hg hs (hs.height ▸ hlt)) fun _ t e ht => ih ht ?_
    have hsucc : (s.ycnt + 1#32).toNat = s.ycnt.toNat + 1 := BitVec.toNat_add_of_lt (by
      have := g.height.isLt
      simp only [BitVec.toNat_ofNat]
      omega)
    rw [decodeScan_ycnt e, hsucc]
    omega

end Decoder

/-! ### Every command -/

theorem State.PixelsInside.command {w : Word} {body : Op Unit} {s t : State} (h : s.PixelsInside)
    (e : command w body s = .next t) (hk : Op.Preserves State.PixelsInside body) : t.PixelsInside := by
  rcases command_answers e with ⟨-, rfl⟩ | ⟨-, hb⟩ | ⟨-, f, u, hb, rfl⟩
  · exact h
  · exact final_ok hb ▸ hk s h
  · have hu : u.PixelsInside := final_error hb ▸ hk s h
    exact { hu with }

/-- The scanlines of DEC_IMAGE and its loop of PLN2IMG, under the geometry of its header (R142). -/
theorem decodeImage_fitsAs {g : State} (hp : g.planes * g.pixels ≤ g.cfg.plnBytes)
    (hi : g.pixels * g.channels ≤ g.cfg.imgWords) :
    Op.Preserves g.FitsAs (do
      update State.firstScan
      reading (fun s => s.height.toNat) (times decodeScan)
      unpackImage) := by
  intro s hs
  have h0 : g.FitsAs s.firstScan := { hs with }
  have hy : s.firstScan.ycnt.toNat + s.firstScan.height.toNat ≤ g.height.toNat := by simp [hs.height]
  rw [Op.final, bind_ok (update_apply State.firstScan s)]
  exact Op.final_bind (Op.final_reading (decodeScans_fitsAs hp h0 hy)) fun _ u _ => unpackImage_fitsAs hi u

/-- A command's checks leave it room for every cell of `IMG` and `PLN` it writes (R166). -/
theorem State.PixelsInside.exec {i : Instr} {s t : State} (h : s.PixelsInside) (hc : isCommand i = true)
    (e : exec i s = .next t) : t.PixelsInside := by
  cases i with
  | nop => exact h.command e (Op.keeps_pure preserves_chains ())
  | f2rgbe | f2re | rgbe2f | re2f => exact h.command e (Op.keeps_update fun _ h => { h with })
  | plnClr =>
    refine h.command e (preserves_checkGeom fun g hp _ s hs => ?_)
    refine Op.final_reading (Op.preserves_forUp (fun a _ ha => ?_) s hs)
    rw [hs.planes, hs.pixels] at ha
    exact Op.keeps_update fun _ ht => ht.writePln (by omega) _
  | insRgbe =>
    exact h.command e (preserves_checkGeom fun g hp _ => preserves_checkPixel fun s hx hs =>
      State.FitsAs.storeQuad (s := s.setQuad s.packRgb) { hs with } hx hp _)
  | insRe =>
    exact h.command e (preserves_checkGeom fun g hp _ => preserves_checkPixel fun s hx hs =>
      State.FitsAs.storePair (s := s.setQuad s.packGray) { hs with } hx hp _)
  | img2pln => exact h.command e (preserves_checkGeom fun g hp _ => quantizeImage_fitsAs hp)
  | pln2img => exact h.command e (preserves_checkGeom fun g _ hi => unpackImage_fitsAs (hi rfl))
  | hdrWr =>
    exact h.command e (Op.keeps_bind preserves_chains
      (Op.keeps_reading fun _ => Op.keeps_raiseIf preserves_chains _ _) fun _ s hs =>
        (fitsAs_of_stream writeHeader_keeps s (.self hs)).toPixelsInside)
  | hdrRd => exact h.command e (readHeader_keeps.weaken fun _ _ h => h.pixelsInside)
  | rleEnc k =>
    exact h.command e (preserves_checkGeom fun g _ _ => Op.preserves_check (checkPlaneRow_apply k) fun s _ hs =>
      Op.final_reading (fitsAs_of_stream (encodePlaneRow_keeps _ _) s hs))
  | encScan =>
    exact h.command e (preserves_checkGeom fun g _ _ => Op.preserves_check checkRow_apply fun s _ =>
      fitsAs_of_scanOut encodeScan_keeps s)
  | encImage =>
    exact h.command e (preserves_checkGeom fun g hp _ => Op.keeps_bind preserves_chains (quantizeImage_fitsAs hp) fun _ =>
      Op.keeps_bind preserves_chains (fitsAs_of_stream writeHeader_keeps) fun _ =>
        Op.keeps_bind preserves_chains (Op.keeps_update fun _ hs => { hs with }) fun _ =>
          Op.keeps_reading fun n => Op.keeps_times preserves_chains (fitsAs_of_scanOut encodeScan_keeps) n)
  | rleDec k =>
    exact h.command e (preserves_checkGeom fun g hp _ => Op.preserves_check (checkPlaneRow_apply k) fun s hk hs =>
      Op.final_reading (rleDecodeRow_fitsAs hp (hs.rowInside _ ▸ State.rowInside_rowBase hk.1 hk.2) s hs))
  | decScan =>
    exact h.command e (preserves_checkGeom fun g hp _ => Op.preserves_check checkRow_apply fun s hy hs =>
      decodeScan_fitsAs hp hs hy)
  | decImage =>
    exact h.command e (Op.keeps_bind preserves_chains (readHeader_keeps.weaken fun _ _ h => h.pixelsInside) fun _ =>
      preserves_checkGeom fun g hp hi => decodeImage_fitsAs hp (hi rfl))
  | srst => exact execSrst_answers e ▸ { h with }
  | rleZero | rleDump | rleDump128 | rleRepeat1 | rleRepeat | scanMarker | rgbeQuad => nomatch hc

/-! ### One step -/

/-- A command keeps every cell inside: those of `STR` because each write looks for room, the others because of its checks. -/
theorem State.CellsInside.execute {w : Word} {s t : State} (h : s.CellsInside) (e : execute w s = .next t) :
    t.CellsInside := by
  have hp : s.PixelsInside := ⟨h.img, h.pln⟩
  unfold Machine.execute at e
  split at e
  case h_1 i hi =>
    have ht := hp.exec (decodeCommand_isCommand hi) e
    exact ⟨ht.img, ht.pln, strInside_closedUnderExec.exec e h.str⟩
  case h_2 =>
    have ht := hp.command e (Op.keeps_raise preserves_chains _)
    exact ⟨ht.img, ht.pln, strInside_closedUnderExec.command (Op.keeps_raise preserves_chains _) e h.str⟩

/-- A host register write touches no memory and no parameter (R153). -/
theorem State.CellsInside.writeReg {s : State} (h : s.CellsInside) (idx : Nat) (v : Word) :
    (s.writeReg idx v).CellsInside := by
  unfold State.writeReg
  split <;> exact { h with }

/-- A host access to a memory drops a write at or above the capacity (R154). -/
theorem State.CellsInside.perform {a : HostAction} {s t : State} (h : s.CellsInside) (e : perform a s = .next t) :
    t.CellsInside := by
  cases a with
  | writeReg idx v =>
    by_cases hi : idx = cmdIndex
    · subst hi; exact h.execute e
    · rw [perform_writeReg hi] at e; injection e with e; exact e ▸ h.writeReg idx v
  | readReg | readMem => injection e with e; exact e ▸ { h with }
  | hardReset => injection e with e; exact e ▸ ⟨rfl, rfl, rfl⟩
  | writeImg a v =>
    injection e with e
    subst e
    split
    case isTrue ha => exact { h with img := Memory.below_store v h.img ha }
    case isFalse => exact h
  | writePln a v =>
    injection e with e
    subst e
    split
    case isTrue ha => exact { h with pln := Memory.below_store v h.pln ha }
    case isFalse => exact h
  | writeStr a v =>
    injection e with e
    subst e
    split
    case isTrue ha => exact { h with str := Memory.below_store v h.str ha }
    case isFalse => exact h

/-- Settles O54: between commands a step is one host action, and neither a host access nor a command stores outside a memory. -/
theorem stepKeepsCellsInside : Obligations.StepKeepsCellsInside := by
  unfold Obligations.StepKeepsCellsInside
  intro s t hinv h e
  rw [step_idle hinv.notBusy, hostStep] at e
  split at e
  · exact State.CellsInside.perform (s := { s with pc := s.pc + 1 }) { h with } e
  · injection e with e; exact e ▸ h

end Sys2Proof.Machine
end

section
/-! The encoder and the decoder invert each other (O1, O2), the opcode map of R61 is the decoder (O3), words written out
(O4), and what a word outside the map does (O5). -/

namespace Sys2Proof.Machine

open Sys2Proof.Spec

/-! ### Decoding an encoding -/

/-- Settles O1: a command word and a control byte run through the opcode map and R66, operand by operand; four stream
bytes are read back field by field, and a marker's first two make it one. -/
theorem decodeOfEncodeIsTheInstruction : Obligations.DecodeOfEncodeIsTheInstruction := by
  unfold Obligations.DecodeOfEncodeIsTheInstruction
  intro i hi
  cases i with
  | rleEnc k => revert k; decide
  | rleDec k => revert k; decide
  | rleDump n => revert n; decide
  | rleRepeat n => revert n; decide
  | scanMarker h l => exact congrArg Except.ok (decodeHead_word ⟨2#8, 2#8, h, l⟩)
  | rgbeQuad r g b e => exact congrArg Except.ok (decodePixel_word ⟨r, g, b, e⟩)
  | _ => rfl

/-! ### Encoding what a code decodes to -/

/-- A format Z word is its opcode and 24 zeros (R60). -/
theorem wordZ_eq_of_fields {w : Word} {op : Byte} (hop : (commandOp w).toNat = op.toNat)
    (hz : w.extractLsb' 0 24 = 0#24) : wordZ op = w := by
  apply BitVec.eq_of_toNat_eq
  have hlt := w.isLt
  have hlow := congrArg BitVec.toNat hz
  simp only [extract_toNat, BitVec.toNat_ofNat] at hlow
  rw [wordZ, append_toNat, ← hop, commandOp, extract_toNat, BitVec.toNat_ofNat]
  omega

/-- A format K word is its opcode, 22 zeros and its plane index (R60, R62). -/
theorem wordK_eq_of_fields {w : Word} {op : Byte} (hop : (commandOp w).toNat = op.toNat)
    (hz : w.extractLsb' 2 22 = 0#22) : wordK op (w.extractLsb' 0 2) = w := by
  apply BitVec.eq_of_toNat_eq
  have hlt := w.isLt
  have hmid := congrArg BitVec.toNat hz
  simp only [extract_toNat, BitVec.toNat_ofNat] at hmid
  have hk : (wordK op (w.extractLsb' 0 2)).toNat = (op ++ 0#22).toNat * 2 ^ 2 + (w.extractLsb' 0 2).toNat :=
    append_toNat _ _
  rw [hk, append_toNat, ← hop, commandOp, extract_toNat, extract_toNat, BitVec.toNat_ofNat]
  omega

/-- A command word is the encoding of the command it decodes to: no bit of it is left out (R60, R63). -/
theorem encode_of_decodeCommand {w : Word} {i : Instr} (h : decodeCommand w = .ok i) : encode i = .command w := by
  unfold decodeCommand at h
  split at h
  case h_20 => nomatch h
  all_goals
    rename_i hop
    simp only [decodeZ_ok, decodeK_ok] at h
    obtain ⟨hz, rfl⟩ := h
  case h_13 | h_16 => exact congrArg Code.command (wordK_eq_of_fields hop hz)
  all_goals exact congrArg Code.command (wordZ_eq_of_fields hop hz)

/-- Four stream bytes as a quad, the first in bits 31:24 (R65). -/
def quadOfWord (w : Word) : Quad := ⟨w.extractLsb' 24 8, w.extractLsb' 16 8, w.extractLsb' 8 8, w.extractLsb' 0 8⟩

theorem quadOfWord_word (w : Word) : (quadOfWord w).word = w := by
  apply BitVec.eq_of_toNat_eq
  have hlt := w.isLt
  have h (q : Quad) : q.word.toNat = ((q.r.toNat * 2 ^ 8 + q.g.toNat) * 2 ^ 8 + q.b.toNat) * 2 ^ 8 + q.e.toNat := by
    refine (append_toNat (q.r ++ q.g ++ q.b) q.e).trans ?_
    rw [append_toNat (q.r ++ q.g) q.b, append_toNat q.r q.g]
  simp only [h, quadOfWord, extract_toNat]
  omega

/-- Four bytes are the encoding of the quad they decode to (R65). -/
theorem encode_decodePixel (w : Word) : encode (decodePixel w) = .pixel w :=
  congrArg Code.pixel (quadOfWord_word w)

/-- Four bytes at the head of a scanline that begin 2, 2 are the encoding of the marker they decode to (R67); otherwise
they are the quad they would be anywhere else (R75). -/
theorem encode_decodeHead (w : Word) : encode (decodeHead w) = .head w ∨ encode (decodeHead w) = .pixel w := by
  have hw := quadOfWord_word w
  rw [← hw, decodeHead_word]
  split
  · rename_i h
    exact .inl (congrArg₂ (fun r g => Code.head (r ++ g ++ _ ++ _)) h.1.symm h.2.symm)
  · exact .inr rfl

theorem decodeHead_wellFormed (w : Word) : (decodeHead w).wellFormed = true := by
  unfold decodeHead
  split <;> rfl

/-- Settles O2: each kind of code by the lemma about its decoder; no command and no four-byte unit is ill formed. -/
theorem encodeOfDecodedIsTheCode : Obligations.EncodeOfDecodedIsTheCode := by
  unfold Obligations.EncodeOfDecodedIsTheCode
  refine ⟨fun w i h => ⟨encode_of_decodeCommand h, ?_⟩, fun c i h => ?_, fun w i h => ?_, fun w i h => ?_⟩
  · have hc := decodeCommand_isCommand h
    cases i with
    | rleZero | rleDump | rleDump128 | rleRepeat1 | rleRepeat | scanMarker | rgbeQuad => nomatch hc
    | _ => rfl
  · obtain rfl : decodeControl c = i := Except.ok.inj h
    exact ⟨encode_decodeControl c, decodeControl_wellFormed c⟩
  · obtain rfl : decodePixel w = i := Except.ok.inj h
    exact ⟨encode_decodePixel w, rfl⟩
  · obtain rfl : decodeHead w = i := Except.ok.inj h
    exact ⟨encode_decodeHead w, decodeHead_wellFormed w⟩

/-! ### The opcode map -/

/-- A word decodes to `i` exactly when it is the command word of `i`. -/
theorem decode_command_iff (w : Word) (i : Instr) : decode (.command w) = .ok i ↔ encode i = .command w := by
  refine ⟨encode_of_decodeCommand, fun h => ?_⟩
  rw [← h]
  refine decodeOfEncodeIsTheInstruction i ?_
  cases i with
  | rleZero | rleDump | rleDump128 | rleRepeat1 | rleRepeat | scanMarker | rgbeQuad => nomatch h
  | _ => rfl

/-- A row's command, given `k`, is encoded as the row's pattern with `k` in the bits that its mask leaves open (R61). -/
theorem encode_row : ∀ r ∈ opcodeRows, ∀ k : BitVec 2,
    encode (r.command k) = .command (r.pattern ||| (~~~r.mask &&& k.setWidth 32)) := by decide

/-- A row's mask leaves open bits of the plane index only (R61). -/
theorem mask_row : ∀ r ∈ opcodeRows, ~~~r.mask &&& 3#32 = ~~~r.mask := by decide

/-- `word[1:0]` as a word. -/
theorem plane_setWidth (w : Word) : (w.extractLsb' 0 2).setWidth 32 = 3#32 &&& w := by
  apply BitVec.eq_of_toNat_eq
  have h : (3#32 &&& w).toNat = w.toNat % 2 ^ 2 := by
    rw [BitVec.toNat_and, Nat.and_comm]; exact Nat.and_two_pow_sub_one_eq_mod w.toNat 2
  rw [h, BitVec.toNat_setWidth, extract_toNat]
  omega

/-- A word that a row matches is the row's pattern with `word[1:0]` in the bits that its mask leaves open. -/
theorem word_of_row {r : OpcodeRow} (hr : r ∈ opcodeRows) {w : Word} (hm : w &&& r.mask = r.pattern) :
    r.pattern ||| (~~~r.mask &&& (w.extractLsb' 0 2).setWidth 32) = w := by
  rw [plane_setWidth, ← BitVec.and_assoc, mask_row r hr, ← hm, BitVec.and_comm w, ← BitVec.and_or_distrib_right,
    BitVec.or_not_self, BitVec.allOnes_and]

/-- The word of a command matches the row of that command (R61). -/
theorem exists_row_of_encode {w : Word} {i : Instr} (h : encode i = .command w) :
    ∃ r ∈ opcodeRows, w &&& r.mask = r.pattern ∧ i = r.command (w.extractLsb' 0 2) := by
  cases i with
  | rleZero | rleDump | rleDump128 | rleRepeat1 | rleRepeat | scanMarker | rgbeQuad => nomatch h
  | rleEnc k => injection h with h; subst h; revert k; decide
  | rleDec k => injection h with h; subst h; revert k; decide
  | _ => injection h with h; subst h; decide

/-- Settles O3: a word decodes to `i` when it is the word of `i`, and the words of a row's command are those the row
matches. -/
theorem opcodeMapSelectsCommands : Obligations.OpcodeMapSelectsCommands := by
  unfold Obligations.OpcodeMapSelectsCommands
  intro w i
  rw [decode_command_iff]
  constructor
  · exact exists_row_of_encode
  · rintro ⟨r, hr, hm, rfl⟩
    rw [encode_row r hr, word_of_row hr hm]

/-! ### Words written out, and words outside the map -/

/-- Settles O4: the decoder evaluates on each. -/
theorem specWordsDecode : Obligations.SpecWordsDecode := by
  unfold Obligations.SpecWordsDecode
  decide

/-- A word outside the opcode map decodes to nothing (R61, R63). -/
theorem decode_error_of_not_matchesRow {w : Word} (h : ¬ MatchesRow w) : ∃ r, decode (.command w) = .error r := by
  cases hd : decode (.command w) with
  | error r => exact ⟨r, rfl⟩
  | ok i =>
    obtain ⟨r, hr, hm, -⟩ := (opcodeMapSelectsCommands w i).mp hd
    exact absurd ⟨r, hr, hm⟩ h

/-- Fault entry between commands writes `ERR` and `ECMD` and nothing else (R167). -/
theorem State.enterFault_idle {s : State} (h : s.decoding = none) (f : FaultCode) (w : Word) :
    s.enterFault f w = { s with status := (s.setErr f.code).status, ecmd := w } := by
  rw [State.enterFault, ← h]
  rfl

/-- Settles O5: the word decodes to nothing, and what is left is the frame of a command around one `raise`. -/
theorem illegalWordRaisesConfigFault : Obligations.IllegalWordRaisesConfigFault := by
  unfold Obligations.IllegalWordRaisesConfigFault
  intro s w hd hw
  obtain ⟨r, hr⟩ := decode_error_of_not_matchesRow hw
  have hx : execute w s = command w (raise .configFault) s := by rw [execute, hr]
  rw [hx]
  by_cases he : s.err = 0#4
  · rw [command_ready ⟨hd, he⟩, if_pos he, raise_apply, settle_error, State.enterFault_idle hd]
    rfl
  · rw [command_faulted hd he, if_neg he]

end Sys2Proof.Machine
end

section
/-! The stream tokens (O42, O43): what follows the last run of a row and the last pixel of a scanline, then each token by
the closed form of the run or pixel it stands for. -/

namespace Sys2Proof.Machine

open Sys2Proof.Spec

/-! ### The loop of PLN2IMG -/

/-- One pixel of PLN2IMG gets the floats of its quad (R115). -/
theorem State.readImg_unpackPixel (p : Nat) (s : State) :
    if s.rgb then
      (s.unpackPixel p).readImg (3 * p) = channelToFloat (planeQuad s p).r (planeQuad s p).e ∧
      (s.unpackPixel p).readImg (3 * p + 1) = channelToFloat (planeQuad s p).g (planeQuad s p).e ∧
      (s.unpackPixel p).readImg (3 * p + 2) = channelToFloat (planeQuad s p).b (planeQuad s p).e
    else (s.unpackPixel p).readImg p = channelToFloat (planeQuad s p).r (planeQuad s p).e := by
  unfold State.unpackPixel planeQuad
  cases hr : s.rgb with
  | true => simp [State.readImg_writeImg, State.pixels]
  | false => simp [State.pixels]

theorem ImageOnly.planeQuad {s t : State} (h : ImageOnly s t) (p : Nat) : planeQuad t p = planeQuad s p := by
  unfold ImageOnly at h; rw [h]; rfl

/-- The loop of PLN2IMG leaves in `IMG` the floats of every quad of the planes (R115). -/
theorem unpackImage_unpacked (s : State) : ImageUnpacked (unpackImage.final s) := by
  rw [unpackImage_final]
  intro p hp
  have honly := unpackImage_only s.pixels 0 s
  have hcell : ∀ a, a ∈ s.imageCells p →
      (State.iterate State.unpackPixel s.pixels 0 s).readImg a = (s.unpackPixel p).readImg a := fun a ha => by
    refine State.readImg_unpackImage (Nat.le_refl _) ?_ ha
    rw [honly] at hp
    exact hp
  have hpix := s.readImg_unpackPixel p
  have hrgb : (State.iterate State.unpackPixel s.pixels 0 s).rgb = s.rgb := by rw [honly]; rfl
  rw [honly.planeQuad, hrgb]
  unfold State.imageCells at hcell
  cases hr : s.rgb with
  | true =>
    rw [hr] at hpix hcell
    rw [if_pos rfl] at hpix hcell ⊢
    rw [hcell _ (by simp), hcell _ (by simp), hcell _ (by simp)]
    exact hpix
  | false =>
    rw [hr] at hpix hcell
    rw [if_neg Bool.false_ne_true] at hpix hcell ⊢
    rw [hcell _ (by simp)]
    exact hpix

/-! ### What follows a run and a scanline -/

/-- `YCNT + 1` as a number, while `n + 1` scanlines of the image are left. -/
theorem ycnt_succ_toNat {y : Word} {n h : Nat} (hy : y.toNat + (n + 1) ≤ h) (hh : h < 2 ^ 32) :
    (y + 1#32).toNat = y.toNat + 1 := by
  rw [BitVec.toNat_add, BitVec.toNat_ofNat]; omega

theorem State.endScan_ycnt_toNat (b : Bool) {s : State} (hy : s.ycnt.toNat < s.height.toNat) :
    (s.endScan b).ycnt.toNat = s.ycnt.toNat + 1 := ycnt_succ_toNat (n := 0) hy s.height.isLt

/-- The end of a scanline (R141, R142), while `YCNT` is a row of the image. -/
theorem State.scanDone_ends (c : DecodeCommand) (b : Bool) {s : State} (hy : s.ycnt.toNat < s.height.toNat) :
    ScanlineEnds c b s (s.scanDone c b) := by
  cases c with
  | rleDec k => exact rfl
  | decScan => exact rfl
  | decImage =>
    unfold ScanlineEnds State.scanDone
    rw [State.endScan_ycnt_toNat b hy]
    by_cases hmore : s.ycnt.toNat + 1 < s.height.toNat
    · simp only [hmore, if_true]
      exact rfl
    · have honly : ImageOnly (s.endScan b) (unpackImage.final (s.endScan b)) := by
        rw [unpackImage_final]; exact unpackImage_only _ 0 _
      simp only [hmore, if_false]
      refine ⟨congrArg State.decodeDone honly, unpackImage_unpacked (s.endScan b), fun a ha => ?_⟩
      refine (congrArg (State.readImg · a) (unpackImage_final (s.endScan b))).trans ?_
      exact State.readImg_unpackImage_other (s := s.endScan b) (Nat.le_refl _) ha

/-- After a run the row goes on, the next begins, or the scanline is complete (R136, R141). -/
theorem State.runDone_goesOn (c : DecodeCommand) (dst : Option Nat) (done : Nat) (rest : List (Option Nat)) {s : State}
    (hy : s.ycnt.toNat < s.height.toNat) : RowGoesOn c dst done rest s (s.runDone c dst done rest) := by
  unfold RowGoesOn State.runDone
  by_cases hmore : done < s.width.toNat
  · simp only [hmore, if_true]
    exact rfl
  · simp only [hmore, if_false]
    cases rest with
    | nil => exact State.scanDone_ends c true hy
    | cons d ds => exact rfl

/-! ### The runs, their data in the stream or cut short -/

theorem strSlice_of_next {s : State} {bs : List Byte} (h : Next s bs) : s.strSlice s.spos.toNat bs.length = bs :=
  State.strSlice_eq h.1

theorem literalRun_whole {dst : Option Nat} {done : Nat} {bs : List Byte} {s : State}
    (hw : bs.length ≤ s.width.toNat - done) (h : Next s bs) :
    literalRun bs.length dst done s = .ok () ((s.fillRow dst done bs).moveCursor bs.length) := by
  have hle := h.2
  rw [literalRun_apply, if_pos hw, if_pos (by omega), strSlice_of_next h]

theorem literalRun_truncated {dst : Option Nat} {done n : Nat} {bs : List Byte} {s : State}
    (hw : n ≤ s.width.toNat - done) (hlt : bs.length < n) (h : Rest s bs) :
    literalRun n dst done s = .error .truncatedData ((s.fillRow dst done bs).moveCursor bs.length) := by
  have hle := h.2
  rw [literalRun_apply, if_pos hw, if_neg (by omega), strSlice_of_rest h, ← hle]

theorem literalRun_overlong {dst : Option Nat} {done n : Nat} {s : State} (hw : s.width.toNat - done < n) :
    literalRun n dst done s = .error .formatFault s := by
  rw [literalRun_apply, if_neg (Nat.not_le_of_lt hw)]

theorem repeatRun_whole {dst : Option Nat} {done n : Nat} {v : Byte} {s : State} (hw : n ≤ s.width.toNat - done)
    (h : Next s [v]) :
    repeatRun n dst done s = .ok () ((s.fillRow dst done (List.replicate n v)).moveCursor 1) := by
  have hv : s.readStr s.spos.toNat = v := h.1 0 Nat.one_pos
  have hle : s.spos.toNat < s.slen.toNat := h.2
  rw [repeatRun_apply, if_pos hw, if_pos hle, hv]

theorem repeatRun_truncated {dst : Option Nat} {done n : Nat} {s : State} (hw : n ≤ s.width.toNat - done)
    (h : Rest s []) : repeatRun n dst done s = .error .truncatedData ((s.fillRow dst done []).moveCursor 0) := by
  have hle : 0 = s.slen.toNat - s.spos.toNat := h.2
  rw [repeatRun_apply, if_pos hw, if_neg (by omega), State.fillRow_nil, State.moveCursor_zero]

theorem repeatRun_overlong {dst : Option Nat} {done n : Nat} {s : State} (hw : s.width.toNat - done < n) :
    repeatRun n dst done s = .error .formatFault s := by
  rw [repeatRun_apply, if_neg (Nat.not_le_of_lt hw)]

/-! ### The run tokens -/

section Token

variable {c : DecodeCommand} {dst : Option Nat} {done n : Nat} {rest : List (Option Nat)}
  {body : Option Nat → Nat → Op Unit} {s u : State} {f : FaultCode}

theorem runToken_ok (h : s.decoding = some ⟨c, .row dst done rest⟩) (hd : s.decodable ⟨c, .row dst done rest⟩ = true)
    (hb : body dst done s = .ok () u) : runToken n body s = .next (u.runDone c dst (done + n) rest) := by
  rw [runToken_row h hd, bind_ok hb]; rfl

theorem runToken_error (h : s.decoding = some ⟨c, .row dst done rest⟩) (hd : s.decodable ⟨c, .row dst done rest⟩ = true)
    (hb : body dst done s = .error f u) : runToken n body s = .next (u.enterFault f c.word) := by
  rw [runToken_row h hd, bind_error hb]; rfl

/-- Outside a plane row a run token is a byte that no decoder is reading (log 6). -/
theorem runToken_outside (h : ∀ c dst done rest, s.decoding ≠ some ⟨c, .row dst done rest⟩) :
    runToken n body s = .next s := by
  unfold runToken
  split
  case h_1 c dst done rest hd => exact absurd hd (h c dst done rest)
  all_goals rfl

end Token

/-- The tokens with a length are the run tokens. -/
theorem exec_runToken {i : Instr} (h : (tokenLength i).isSome = true) :
    ∃ n body, ∀ s, exec i s = runToken n body s := by
  cases i with
  | rleZero => exact ⟨0, fun _ _ => raise .formatFault, fun _ => rfl⟩
  | rleDump n => exact ⟨n.toNat, literalRun n.toNat, fun _ => rfl⟩
  | rleDump128 => exact ⟨128, literalRun 128, fun _ => rfl⟩
  | rleRepeat1 => exact ⟨1, repeatRun 1, fun _ => rfl⟩
  | rleRepeat n => exact ⟨n.toNat, repeatRun n.toNat, fun _ => rfl⟩
  | _ => nomatch h

/-- Settles O42: inside a row each token is its run, in closed form, and what follows a run. -/
theorem runTokensProduceTheirBytes : Obligations.RunTokensProduceTheirBytes := by
  unfold Obligations.RunTokensProduceTheirBytes
  refine ⟨fun s c dst done rest h hd => ?_, fun s i hi h => ?_⟩
  case refine_2 =>
    obtain ⟨n, body, hrun⟩ := exec_runToken hi
    exact (hrun s).trans (runToken_outside h)
  obtain ⟨hhead, hdone, -⟩ := State.decodable_row.mp hd
  obtain ⟨-, hy⟩ := State.decodable_geometry hhead
  intro left stored after ends stops
  have hstored : ∀ row m, stored row m ((s.fillRow dst done row).moveCursor m) := fun row m =>
    ⟨congrArg (State.moveCursor m) (s.fillRow_only dst done row), s.readPln_fillRow dst done row⟩
  have hafter : ∀ {body : Option Nat → Nat → Op Unit} {row : List Byte} {m : Nat} {i : Instr},
      exec i s = runToken row.length body s →
      body dst done s = .ok () ((s.fillRow dst done row).moveCursor m) → after row m i := fun {_ row m _} hi hb => by
    have honly := congrArg (State.moveCursor m) (s.fillRow_only dst done row)
    refine ⟨_, _, hstored row m, hi.trans (runToken_ok h hd hb), State.runDone_goesOn c dst _ rest ?_⟩
    rw [honly]
    exact hy
  have hends : ∀ {body : Option Nat → Nat → Op Unit} {n : Nat} {row : List Byte} {i : Instr},
      exec i s = runToken n body s →
      body dst done s = .error .truncatedData ((s.fillRow dst done row).moveCursor row.length) → ends row i :=
    fun {_ _ row _} hi hb => ⟨_, hstored row row.length, hi.trans (runToken_error h hd hb)⟩
  have hstops : ∀ {body : Option Nat → Nat → Op Unit} {n : Nat} {i : Instr},
      exec i s = runToken n body s → body dst done s = .error .formatFault s → stops i :=
    fun hi hb => hi.trans (runToken_error h hd hb)
  refine ⟨hstops (body := fun _ _ => raise .formatFault) (n := 0) rfl rfl,
    fun n bs hn => ⟨fun hlen hnext => ?_, fun hlt hrest => ?_⟩,
    fun bs hn => ⟨fun hlen hnext => ?_, fun hlt hrest => ?_⟩, fun v hnext => ?_, fun hrest => ?_,
    fun n hn => ⟨fun v hnext => ?_, fun hrest => ?_⟩, fun n hn => ⟨?_, ?_⟩, fun hn => ?_⟩
  · rw [← hlen] at hn ⊢
    refine hafter (body := literalRun bs.length) ?_ (literalRun_whole hn hnext)
    rw [hlen]; rfl
  · exact hends (body := literalRun n.toNat) rfl (literalRun_truncated hn hlt hrest)
  · rw [← hlen] at hn ⊢
    refine hafter (body := literalRun bs.length) ?_ (literalRun_whole hn hnext)
    rw [hlen]; rfl
  · exact hends (body := literalRun 128) rfl (literalRun_truncated hn hlt hrest)
  · exact hafter (body := repeatRun 1) rfl (repeatRun_whole (by omega) hnext)
  · exact hends (body := repeatRun 1) rfl (repeatRun_truncated (by omega) hrest)
  · refine hafter (body := repeatRun n.toNat) ?_ (repeatRun_whole hn hnext)
    rw [List.length_replicate]; rfl
  · exact hends (body := repeatRun n.toNat) rfl (repeatRun_truncated hn hrest)
  · exact hstops (body := literalRun n.toNat) rfl (literalRun_overlong hn)
  · exact hstops (body := repeatRun n.toNat) rfl (repeatRun_overlong hn)
  · exact hstops (body := literalRun 128) rfl (literalRun_overlong hn)

/-! ### The marker and the quad -/

/-- Where a scanline's marker leads (R140, R141): its first plane row, the other three to follow. -/
theorem State.beginRows_eq (c : DecodeCommand) (s : State) :
    s.beginRows c = s.decodeAt c
      (if s.rgb then .row (some (s.rowBase 0 s.ycnt.toNat)) 0
        [some (s.rowBase 1 s.ycnt.toNat), some (s.rowBase 2 s.ycnt.toNat), some (s.rowBase 3 s.ycnt.toNat)]
      else .row (some (s.rowBase 0 s.ycnt.toNat)) 0 [none, none, some (s.rowBase 1 s.ycnt.toNat)]) := by
  unfold State.beginRows
  cases hr : s.rgb with
  | true => rw [State.destinations_rgb hr]; rfl
  | false => rw [State.destinations_gray hr]; rfl

/-- A quad at the head of a scanline or inside a flat one is its next pixel (R69, R75, R141). -/
theorem exec_quad {c : DecodeCommand} {p : DecodePhase} {x : Nat} {q : Quad} {s : State}
    (hp : p = .head ∧ x = 0 ∨ p = .flat x) (h : s.decoding = some ⟨c, p⟩) (hd : s.decodable ⟨c, p⟩ = true) :
    exec (.rgbeQuad q.r q.g q.b q.e) s =
      .next ((s.storeFlat x (s.destinations s.ycnt.toNat) [q.r, q.g, q.b, q.e]).pixelDone c x) := by
  rw [← pixelToken_eq]
  rcases hp with ⟨rfl, rfl⟩ | rfl
  · exact exec_quad_at_head h hd
  · exact exec_quad_at_flat h hd

/-- Where a quad is read, the head of its scanline could have been. -/
theorem State.decodable_head {c : DecodeCommand} {p : DecodePhase} {x : Nat} {s : State}
    (hp : p = .head ∧ x = 0 ∨ p = .flat x) (hd : s.decodable ⟨c, p⟩ = true) : s.decodable ⟨c, .head⟩ = true := by
  rcases hp with ⟨rfl, rfl⟩ | rfl
  · exact hd
  · exact (State.decodable_flat.mp hd).1

/-- A marker token away from the head of a scanline is four bytes that no decoder is reading (log 6). -/
theorem exec_marker_outside {h l : Byte} {s : State} (hd : ∀ c, s.decoding ≠ some ⟨c, .head⟩) :
    exec (.scanMarker h l) s = .next s := by
  show execScanMarker h l s = _
  unfold execScanMarker
  split
  case h_1 c hc => exact absurd hc (hd c)
  all_goals rfl

/-- A quad token where no decoder is reading pixels (log 6). -/
theorem exec_quad_outside {r g b e : Byte} {s : State} (hd : ∀ c, s.decoding ≠ some ⟨c, .head⟩)
    (hf : ∀ c x, s.decoding ≠ some ⟨c, .flat x⟩) : exec (.rgbeQuad r g b e) s = .next s := by
  show execRgbeQuad r g b e s = _
  unfold execRgbeQuad
  split
  case h_1 c hc => exact absurd hc (hd c)
  case h_2 c x hc => exact absurd hc (hf c x)
  all_goals rfl

/-- Settles O43: at the head a marker with the width begins the rows of the destinations, any other is the quad it is; a
quad is stored at its pixel, and then the scanline goes on or is complete. -/
theorem markerAndQuadTokens : Obligations.MarkerAndQuadTokens := by
  unfold Obligations.MarkerAndQuadTokens
  refine ⟨fun s c m l h hd => ⟨fun hw => ?_, fun hw => ?_⟩, fun s c p x r g b e hp h hd => ?_,
    fun s r g b e hd => ⟨exec_marker_outside hd, exec_quad_outside hd⟩⟩
  · rw [exec_marker_at_head h hd, if_pos hw, s.beginRows_eq]
    rfl
  · rw [exec_marker_at_head h hd, if_neg hw]
    exact (exec_quad_at_head (q := ⟨2#8, 2#8, m, l⟩) h hd).symm
  · obtain ⟨hx, hh⟩ := State.decodable_pixel hp hd
    have honly := s.storeFlat_only x (s.destinations s.ycnt.toNat) [r, g, b, e]
    have hexec := exec_quad (q := ⟨r, g, b, e⟩) hp h hd
    refine ⟨_, honly, State.storeFlat_rowGot hh hx s.ycnt.toNat [r, g, b, e], fun a ha => State.storeFlat_frame hx ha _,
      fun hmore => ?_, fun hlast => ?_⟩
    · rw [hexec, State.pixelDone_more (by rw [honly]; exact hmore)]
      rfl
    · have hy : s.ycnt.toNat < s.height.toNat := (State.decodable_geometry (State.decodable_head hp hd)).2
      refine ⟨_, hexec, ?_⟩
      rw [State.pixelDone_last (by rw [honly]; exact hlast.not_lt)]
      exact State.scanDone_ends c false (by rw [honly]; exact hy)

end Sys2Proof.Machine
end

section
/-! Runs: what the row encoder writes is greedy runs (O30), and the row decoder reads every sequence of readable runs
(O34). -/

namespace Sys2Proof.Machine

open Sys2Proof.Spec

/-! ### The first run of the encoder -/

/-- Every byte a dump run takes differs from its successor, the last of them too (R121). -/
theorem dumpRun_chain (cap : Nat) (bs : List Byte) : (bs.take (dumpRun cap bs + 1)).IsChain (· ≠ ·) := by
  induction cap generalizing bs with
  | zero => match bs with
    | [] => simp
    | b :: bs => simp [dumpRun]
  | succ cap ih =>
    match bs with
    | [] => simp
    | [b] => simp
    | b :: c :: bs =>
      rw [dumpRun]
      split
      · simp
      · rename_i hne
        have h := ih (c :: bs)
        rw [List.take_succ_cons] at h
        rw [List.take_succ_cons, List.take_succ_cons, List.isChain_cons_cons]
        exact ⟨fun e => hne e.symm, h⟩

/-- A dump run below its cap ends with the row, or before two equal bytes (R121). -/
theorem dumpRun_stops (cap : Nat) (bs : List Byte) (h : dumpRun cap bs < cap) :
    bs.drop (dumpRun cap bs) = [] ∨ ∃ b cs, bs.drop (dumpRun cap bs) = b :: b :: cs := by
  induction cap generalizing bs with
  | zero => omega
  | succ cap ih =>
    match bs with
    | [] => exact .inl List.drop_nil
    | [b] => exact .inl rfl
    | b :: c :: bs =>
      rw [dumpRun] at h ⊢
      split
      · rename_i he
        exact .inr ⟨b, bs, he ▸ rfl⟩
      · rename_i hne
        rw [if_neg hne] at h
        rw [List.drop_succ_cons]
        exact ih (c :: bs) (by omega)

/-- The run the encoder writes at the start of what is left of a row (R121). -/
def firstRun (b : Byte) (bs : List Byte) : Run :=
  if 2 ≤ equalRun b (maxRun - 1) bs + 1 then .rep (equalRun b (maxRun - 1) bs + 1) b
  else .dump ((b :: bs).take (dumpRun maxRun (b :: bs)))

theorem firstRun_rep {b : Byte} {bs : List Byte} (h : 2 ≤ equalRun b (maxRun - 1) bs + 1) :
    firstRun b bs = .rep (equalRun b (maxRun - 1) bs + 1) b := if_pos h

theorem firstRun_dump {b : Byte} {bs : List Byte} (h : ¬ 2 ≤ equalRun b (maxRun - 1) bs + 1) :
    firstRun b bs = .dump ((b :: bs).take (dumpRun maxRun (b :: bs))) := if_neg h

/-- Two equal bytes begin a repeat run (R121). -/
theorem firstRun_of_equal (b : Byte) (bs : List Byte) : ∃ n, firstRun b (b :: bs) = .rep n b :=
  ⟨_, firstRun_rep (by rw [maxRun, equalRun, if_pos rfl]; omega)⟩

theorem length_take_dumpRun (bs : List Byte) : (bs.take (dumpRun maxRun bs)).length = dumpRun maxRun bs :=
  List.length_take_of_le (dumpRun_le_length _ _)

/-- The first run stands for the first bytes of the row. -/
theorem firstRun_row (b : Byte) (bs : List Byte) :
    (firstRun b bs).row ++ (b :: bs).drop (firstRun b bs).row.length = b :: bs := by
  by_cases h : 2 ≤ equalRun b (maxRun - 1) bs + 1
  · rw [firstRun_rep h, Run.row, List.replicate_succ, ← equalRun_take]
    simp [equalRun_le_length]
  · rw [firstRun_dump h, Run.row, length_take_dumpRun]
    exact List.take_append_drop _ _

/-- The first run is one the encoder may write (R66, R121). -/
theorem firstRun_written (b : Byte) (bs : List Byte) : (firstRun b bs).Written := by
  by_cases h : 2 ≤ equalRun b (maxRun - 1) bs + 1
  · have hle := equalRun_le_cap b (maxRun - 1) bs
    rw [firstRun_rep h]
    exact ⟨h, by rw [maxRun] at hle ⊢; omega⟩
  · have hne : bs.head? ≠ some b := by
      have h0 : equalRun b (maxRun - 1) bs = 0 := by omega
      have hnext := equalRun_next b (maxRun - 1) bs (by rw [h0, maxRun]; decide)
      rwa [h0, List.drop_zero] at hnext
    have hchain := dumpRun_chain maxRun (b :: bs)
    rw [firstRun_dump h]
    refine ⟨?_, ?_, ?_⟩
    · rw [length_take_dumpRun]; exact dumpRun_pos 126 b bs hne
    · rw [length_take_dumpRun]; exact dumpRun_le_cap maxRun _
    · have htake := hchain.take (dumpRun maxRun (b :: bs))
      rwa [List.take_take, Nat.min_eq_left (Nat.le_succ _)] at htake

/-- A written run stands for at least one byte. -/
theorem written_pos {r : Run} (h : r.Written) : 1 ≤ r.row.length := by
  cases r with
  | dump bs => exact h.1
  | rep n v => rw [Run.row, List.length_replicate]; exact Nat.le_of_succ_le h.1

theorem firstRun_head (b : Byte) (bs : List Byte) : (firstRun b bs).row.head? = some b := by
  have hpos := written_pos (firstRun_written b bs)
  have hrow := congrArg List.head? (firstRun_row b bs)
  rwa [List.head?_append_of_ne_nil _ (List.length_pos_iff.mp hpos)] at hrow

/-- The last byte of a dump run differs from the byte after it (R121). -/
theorem dumpRun_last_ne {bs : List Byte} {c : Byte} {cs : List Byte} (h : bs.drop (dumpRun maxRun bs) = c :: cs) :
    (bs.take (dumpRun maxRun bs)).getLast? ≠ some c := by
  have hchain := dumpRun_chain maxRun bs
  rw [List.take_add, h, List.isChain_append] at hchain
  obtain ⟨-, -, hne⟩ := hchain
  exact fun hlast => hne c hlast c rfl rfl

/-- The run after the first follows it greedily (R121). -/
theorem firstRun_follows {b c : Byte} {bs cs : List Byte}
    (h : (b :: bs).drop (firstRun b bs).row.length = c :: cs) : (firstRun b bs).Follows (firstRun c cs) := by
  have hhead := firstRun_head c cs
  by_cases hk : 2 ≤ equalRun b (maxRun - 1) bs + 1
  · rw [firstRun_rep hk, Run.row, List.length_replicate, List.drop_succ_cons] at h
    rw [firstRun_rep hk]
    show _ = 127 ∨ _
    by_cases hcap : equalRun b (maxRun - 1) bs < maxRun - 1
    · have hne := equalRun_next b _ bs hcap
      rw [h, List.head?_cons] at hne
      exact .inr (hhead ▸ hne)
    · have hle := equalRun_le_cap b (maxRun - 1) bs
      rw [maxRun] at hcap hle ⊢
      exact .inl (by omega)
  · rw [firstRun_dump hk, Run.row, length_take_dumpRun] at h
    have hlast := dumpRun_last_ne h
    rw [firstRun_dump hk]
    cases hr : firstRun c cs with
    | rep k v =>
      have hw := firstRun_written c cs
      rw [hr] at hhead hw
      have hv : v = c := by
        obtain ⟨m, rfl⟩ : ∃ m, k = m + 1 := ⟨k - 1, by have := hw.1; omega⟩
        exact Option.some.inj hhead
      exact hv ▸ hlast
    | dump ds =>
      rw [hr] at hhead
      refine ⟨?_, fun e => hlast (e.trans hhead)⟩
      rw [length_take_dumpRun]
      refine Nat.le_antisymm (dumpRun_le_cap maxRun _) (Nat.le_of_not_lt fun hlt => ?_)
      rcases dumpRun_stops maxRun (b :: bs) hlt with hnil | ⟨x, xs, hx⟩
      · rw [hnil] at h; nomatch h
      · rw [hx, List.cons.injEq] at h
        obtain ⟨rfl, rfl⟩ := h
        obtain ⟨n, hn⟩ := firstRun_of_equal x xs
        rw [hn] at hr
        nomatch hr

/-! ### The runs of a whole row -/

/-- The runs of `RleEncodeRow` (R121), as `rleRuns` measures them. -/
def greedyRuns : Nat → List Byte → List Run
  | 0, _ => []
  | _ + 1, [] => []
  | fuel + 1, b :: bs => firstRun b bs :: greedyRuns fuel ((b :: bs).drop (firstRun b bs).row.length)

theorem runBytes_cons (r : Run) (rs : List Run) : runBytes (r :: rs) = r.bytes ++ runBytes rs := List.flatMap_cons

theorem runRow_cons (r : Run) (rs : List Run) : runRow (r :: rs) = r.row ++ runRow rs := List.flatMap_cons

/-- `rleRuns` writes the runs of `greedyRuns`. -/
theorem rleRuns_eq_runBytes (fuel : Nat) (row : List Byte) : rleRuns fuel row = runBytes (greedyRuns fuel row) := by
  induction fuel generalizing row with
  | zero => rfl
  | succ fuel ih =>
    cases row with
    | nil => rfl
    | cons b bs =>
      rw [greedyRuns, runBytes_cons, ← ih, rleRuns]
      by_cases h : 2 ≤ equalRun b (maxRun - 1) bs + 1
      · rw [if_pos h, firstRun_rep h, Run.row, List.length_replicate]; rfl
      · rw [if_neg h, firstRun_dump h, Run.row, Run.bytes, length_take_dumpRun]; rfl

/-- With fuel for every byte left, the runs stand for the whole row. -/
theorem runRow_greedyRuns {fuel : Nat} {row : List Byte} (h : row.length ≤ fuel) :
    runRow (greedyRuns fuel row) = row := by
  induction fuel generalizing row with
  | zero => rw [List.length_eq_zero_iff.mp (Nat.le_zero.mp h)]; rfl
  | succ fuel ih =>
    cases row with
    | nil => rfl
    | cons b bs =>
      have hpos := written_pos (firstRun_written b bs)
      rw [greedyRuns, runRow_cons, ih, firstRun_row]
      rw [List.length_drop]
      omega

theorem greedyRuns_written (fuel : Nat) (row : List Byte) : ∀ r ∈ greedyRuns fuel row, r.Written := by
  induction fuel generalizing row with
  | zero => nofun
  | succ fuel ih =>
    cases row with
    | nil => nofun
    | cons b bs => exact List.forall_mem_cons.mpr ⟨firstRun_written b bs, ih _⟩

theorem greedyRuns_chain (fuel : Nat) (row : List Byte) : (greedyRuns fuel row).IsChain Run.Follows := by
  induction fuel generalizing row with
  | zero => exact .nil
  | succ fuel ih =>
    cases row with
    | nil => exact .nil
    | cons b bs =>
      rw [greedyRuns, List.isChain_cons]
      refine ⟨fun r hr => ?_, ih _⟩
      cases fuel with
      | zero => nomatch hr
      | succ fuel =>
        cases hdrop : (b :: bs).drop (firstRun b bs).row.length with
        | nil => rw [hdrop] at hr; nomatch hr
        | cons c cs =>
          rw [hdrop] at hr
          obtain rfl : firstRun c cs = r := Option.some.inj hr
          exact firstRun_follows hdrop

/-! ### How long runs are -/

/-- A written run takes at least two bytes, at most two for each it stands for, and stands for at most 127 (R123). -/
theorem written_length {r : Run} (h : r.Written) :
    2 ≤ r.bytes.length ∧ r.bytes.length ≤ 2 * r.row.length ∧ r.row.length ≤ 127 := by
  cases r with
  | dump bs =>
    obtain ⟨h1, h2, -⟩ := h
    rw [Run.bytes, Run.row, List.length_cons]
    omega
  | rep n v =>
    obtain ⟨h1, h2⟩ := h
    rw [Run.bytes, Run.row, List.length_replicate]
    simp only [List.length_cons, List.length_nil]
    omega

/-- What each run takes and stands for, added up over the runs of a row (R123). -/
theorem runBytes_length {rs : List Run} (h : ∀ r ∈ rs, r.Written) :
    2 * rs.length ≤ (runBytes rs).length ∧ (runBytes rs).length ≤ 2 * (runRow rs).length ∧
      (runRow rs).length ≤ 127 * rs.length := by
  induction rs with
  | nil => exact ⟨Nat.le_refl _, Nat.le_refl _, Nat.le_refl _⟩
  | cons r rs ih =>
    obtain ⟨hr, hrs⟩ := List.forall_mem_cons.mp h
    have h1 := written_length hr
    have h2 := ih hrs
    simp only [runBytes_cons, runRow_cons, List.length_append, List.length_cons]
    omega

/-- `RleEncodeRow` writes greedy runs that stand for the row (R121). -/
theorem rleEncodeRow_runs (row : List Byte) :
    ∃ rs : List Run, rleEncodeRow row = runBytes rs ∧ runRow rs = row ∧ (∀ r ∈ rs, r.Written) ∧
      rs.IsChain Run.Follows :=
  ⟨greedyRuns row.length row, rleRuns_eq_runBytes _ _, runRow_greedyRuns (Nat.le_refl _), greedyRuns_written _ _,
    greedyRuns_chain _ _⟩

/-- Settles O30: the runs are those the encoder measures, and their number bounds the length from below. -/
theorem encodedRowIsGreedyRuns : Obligations.EncodedRowIsGreedyRuns := by
  unfold Obligations.EncodedRowIsGreedyRuns
  intro row
  obtain ⟨rs, hbytes, hrow, hwritten, hchain⟩ := rleEncodeRow_runs row
  have hlen := runBytes_length hwritten
  rw [← hbytes, hrow] at hlen
  exact ⟨⟨rs, hbytes, hrow, hwritten, hchain⟩, hlen.2.1, by omega⟩

/-! ### The decoder on readable runs -/

/-- Bytes that come next in the stream come next part by part. -/
theorem next_append {as bs : List Byte} {s : State} (h : Next s (as ++ bs)) :
    Next s as ∧ Next (s.moveCursor as.length) bs := by
  obtain ⟨hbytes, hle⟩ := h
  rw [List.length_append] at hle
  have hpos : (s.moveCursor as.length).spos.toNat = s.spos.toNat + as.length :=
    State.moveCursor_spos (b := s.slen.toNat) (by omega) s.slen.isLt
  refine ⟨⟨fun i hi => ?_, by omega⟩, fun i hi => ?_, ?_⟩
  · rw [hbytes i (by rw [List.length_append]; omega), List.getElem_append_left hi]
  · rw [hpos, Nat.add_assoc]
    refine (hbytes (as.length + i) (by rw [List.length_append]; omega)).trans ?_
    rw [List.getElem_append_right (Nat.le_add_right _ _)]
    simp only [Nat.add_sub_cancel_left]
  · rw [hpos, Nat.add_assoc]
    exact hle

/-- What comes next in the stream does not depend on the planes. -/
theorem PlanesOnly.next {s t : State} (h : PlanesOnly s t) {bs : List Byte} : Next t bs ↔ Next s bs := by
  unfold PlanesOnly at h; rw [h]; rfl

/-- A readable run that fits the row is decoded to what it stands for (R66, R136). -/
theorem decodeRun_readable {dst : Option Nat} {done : Nat} {r : Run} {s : State} (hr : r.Readable)
    (hw : r.row.length ≤ s.width.toNat - done) (h : Next s r.bytes) :
    decodeRun dst done s = .ok r.row.length ((s.fillRow dst done r.row).moveCursor r.bytes.length) := by
  have hs := strSlice_of_next h
  cases r with
  | dump bs => exact decodeRun_dump hr.1 hr.2 hw hs h.2
  | rep n v =>
    rw [Run.row, List.length_replicate] at hw ⊢
    exact decodeRun_repeat hr.1 hr.2 hw hs h.2

theorem readable_pos {r : Run} (h : r.Readable) : 1 ≤ r.row.length := by
  cases r with
  | dump bs => exact h.1
  | rep n v => rw [Run.row, List.length_replicate]; exact h.1

/-- The loop of `RleDecodeRow` reads runs that fill what is left of the row, and stores what they stand for (R136). -/
theorem decodeRuns_readable {dst : Option Nat} {rs : List Run} {fuel done : Nat} {s : State}
    (hrs : ∀ r ∈ rs, r.Readable) (hw : done + (runRow rs).length = s.width.toNat) (hf : (runRow rs).length ≤ fuel)
    (h : Next s (runBytes rs)) :
    decodeRuns dst fuel done s = .ok () ((s.fillRow dst done (runRow rs)).moveCursor (runBytes rs).length) := by
  induction rs generalizing fuel done s with
  | nil =>
    have hfull : ¬ done < s.width.toNat := by rw [← hw]; exact Nat.lt_irrefl done
    rw [decodeRuns_full hfull, runRow, List.flatMap_nil, State.fillRow_nil]
    exact congrArg _ (State.moveCursor_zero s).symm
  | cons r rs ih =>
    obtain ⟨hr, hrs⟩ := List.forall_mem_cons.mp hrs
    have hpos := readable_pos hr
    rw [runRow_cons] at hw hf ⊢
    rw [runBytes_cons] at h ⊢
    rw [List.length_append] at hw hf ⊢
    obtain ⟨hfirst, hnext⟩ := next_append h
    obtain ⟨fuel, rfl⟩ : ∃ n, fuel = n + 1 := ⟨fuel - 1, by omega⟩
    have honly := (s.moveCursor r.bytes.length).fillRow_only dst done r.row
    rw [decodeRuns_succ (by omega), bind_ok (decodeRun_readable hr (by omega) hfirst), ← State.fillRow_moveCursor,
      ih hrs (by rw [State.fillRow_width, State.moveCursor_width]; omega) (by omega) (honly.next.mpr hnext),
      State.fillRow_append, State.fillRow_moveCursor, State.fillRow_moveCursor, State.moveCursor_moveCursor]

/-- `RleDecodeRow` on readable runs that fill the row (R136). -/
theorem rleDecodeRow_readable {dst : Option Nat} {rs : List Run} {s : State} (hrs : Fills s.width.toNat rs)
    (h : Next s (runBytes rs)) :
    rleDecodeRow dst s = .ok () ((s.fillRow dst 0 (runRow rs)).moveCursor (runBytes rs).length) := by
  obtain ⟨hread, hlen⟩ := hrs
  exact decodeRuns_readable hread (by omega) (Nat.le_of_eq hlen) h

/-! ### RLE_DEC -/

/-- Pseudocode that raises ConfigFault before it has changed anything (R166). -/
theorem configFaults_of_body {i : Instr} {body : Op Unit} {s : State} (hi : exec i s = command i.word body s)
    (hr : s.Ready) (hb : body s = .error .configFault s) : ConfigFaults i s := by
  rw [ConfigFaults, hi, command_ready hr, hb, settle_error, State.enterFault_idle hr.1]
  rfl

/-- Settles O34: with its checks passed RLE_DEC is `RleDecodeRow`; otherwise the first check that fails raises. -/
theorem rleDecStoresReadableRuns : Obligations.RleDecStoresReadableRuns := by
  unfold Obligations.RleDecStoresReadableRuns
  intro s k hr
  refine ⟨?_, fun rs hchecks hread hlen hnext => ?_, fun hchecks => ?_⟩
  · revert k; decide
  · obtain ⟨hgeom, hk, hy⟩ := hchecks
    have hg := (State.geomFits_iff _ _ s).mpr hgeom
    have hexec := exec_rleDec hr hg hk hy
    rw [rleDecodeRow_readable ⟨hread, hlen⟩ hnext, settle_ok] at hexec
    exact ⟨_, hexec, congrArg (State.moveCursor _) (s.fillRow_only _ 0 (runRow rs)), s.readPln_fillRow _ 0 (runRow rs)⟩
  · refine configFaults_of_body rfl hr ?_
    rw [bind_check (checkGeom_apply _ _ s)]
    by_cases hg : s.geomFits s.planes false = true
    · rw [if_pos hg, bind_check (checkPlaneRow_apply k s), if_neg]
      exact fun hrow => hchecks ⟨(State.geomFits_iff _ _ s).mp hg, hrow⟩
    · rw [if_neg hg]

end Sys2Proof.Machine
end

section
/-! The header read back (R70, R103 to R105): `ReadLine` over a line that comes next, the digits of a dimension line,
and HDR_RD's pseudocode over the bytes that HDR_WR writes. -/

namespace Sys2Proof.Machine

open Sys2Proof.Spec

/-! ### Decimal numbers -/

/-- A digit's character code (R102). -/
theorem digit_toNat {d : Nat} (h : d < 10) : (BitVec.ofNat 8 (0x30 + d)).toNat = 0x30 + d := by
  rw [BitVec.toNat_ofNat]; omega

theorem isDigit_digit {d : Nat} (h : d < 10) : isDigit (BitVec.ofNat 8 (0x30 + d)) = true := by
  simp only [isDigit, digit_toNat h, Bool.and_eq_true, decide_eq_true_eq]
  omega

theorem decimalDigits_isDigit (fuel n : Nat) : ∀ d ∈ decimalDigits fuel n, isDigit d = true := by
  induction fuel generalizing n with
  | zero => nofun
  | succ fuel ih =>
    rw [decimalDigits]
    split
    · rename_i h
      exact List.forall_mem_singleton.mpr (isDigit_digit h)
    · have hmod : n % 10 < 10 := Nat.mod_lt _ (by decide)
      exact List.forall_mem_append.mpr ⟨ih _, List.forall_mem_singleton.mpr (isDigit_digit hmod)⟩

/-- The value of a digit sequence, as the dimension line's reader accumulates it (R105). -/
def digitsValue (ds : List Byte) : Nat := ds.foldl (fun v d => v * 10 + (d.toNat - 0x30)) 0

/-- The digits of `n` have the value `n`, as long as the fuel is at least their number. -/
theorem digitsValue_decimalDigits {fuel n : Nat} (h : n < 10 ^ fuel) : digitsValue (decimalDigits fuel n) = n := by
  induction fuel generalizing n with
  | zero => rw [Nat.pow_zero, Nat.lt_one_iff] at h; exact h.symm
  | succ fuel ih =>
    rw [decimalDigits]
    split
    · rename_i hlt
      rw [digitsValue, List.foldl_cons, List.foldl_nil, digit_toNat hlt]
      omega
    · have hmod : n % 10 < 10 := Nat.mod_lt _ (by decide)
      rw [digitsValue, List.foldl_append, ← digitsValue, ih (by omega), List.foldl_cons, List.foldl_nil,
        digit_toNat hmod]
      omega

theorem decimal_value (n : Word) : digitsValue (decimal n) = n.toNat := by
  have h := n.isLt
  exact digitsValue_decimalDigits (by omega)

theorem decimal_isDigit (n : Word) : ∀ d ∈ decimal n, isDigit d = true := decimalDigits_isDigit 10 _

theorem decimalDigits_ne_nil (fuel n : Nat) : decimalDigits (fuel + 1) n ≠ [] := by
  rw [decimalDigits]
  split
  · exact List.cons_ne_nil _ _
  · exact List.append_ne_nil_of_right_ne_nil _ (List.cons_ne_nil _ _)

theorem decimal_ne_nil (n : Word) : decimal n ≠ [] := decimalDigits_ne_nil 9 _

/-- The digits of a number other than 0 are those of `Dec(n)` (R102). -/
theorem decimalDigits_eq_dec {fuel n : Nat} (h0 : 0 < n) (h : n < 10 ^ fuel) : decimalDigits fuel n = dec n := by
  induction fuel generalizing n with
  | zero => rw [Nat.pow_zero] at h; omega
  | succ fuel ih =>
    rw [decimalDigits, dec]
    split
    · rename_i hlt
      rw [Nat.digits_of_lt 10 n (by omega) hlt]
      rfl
    · rw [Nat.digits_def' (by decide) h0, List.reverse_cons, List.map_append, ih (by omega) (by omega)]
      rfl

theorem decimal_eq_dec {n : Word} (h : n ≠ 0#32) : decimal n = dec n.toNat := by
  have hlt := n.isLt
  have h0 : n.toNat ≠ 0 := fun e => h (BitVec.eq_of_toNat_eq e)
  exact decimalDigits_eq_dec (by omega) (by omega)

/-- HDR_WR writes the header's bytes (R70, R101). -/
theorem headerText_eq_headerBytes {h w : Word} (hh : h ≠ 0#32) (hw : w ≠ 0#32) :
    headerText h w = headerBytes h.toNat w.toNat := by
  rw [headerText, headerBytes, decimal_eq_dec hh, decimal_eq_dec hw]
  simp only [List.append_assoc]
  rfl

/-! ### The dimension line -/

/-- The dimension line for a geometry (R70). -/
def dimensionText (h w : Word) : List Byte := heightTag ++ (decimal h ++ (widthTag ++ decimal w))

/-- Digits up to a byte that is none (R105). -/
theorem takeDigits_append {ds rest : List Byte} (hd : ∀ d ∈ ds, isDigit d = true)
    (hrest : ∀ d ∈ rest.head?, isDigit d = false) :
    takeDigits (ds ++ rest) 0 0 = (digitsValue ds, ds.length, rest) := by
  suffices ∀ v n, takeDigits (ds ++ rest) v n =
      (ds.foldl (fun v d => v * 10 + (d.toNat - 0x30)) v, n + ds.length, rest) by
    rw [this, Nat.zero_add]; rfl
  induction ds with
  | nil =>
    intro v n
    cases rest with
    | nil => rfl
    | cons b bs => rw [List.nil_append, takeDigits, hrest b rfl, if_neg Bool.false_ne_true]; rfl
  | cons d ds ih =>
    intro v n
    obtain ⟨h1, h2⟩ := List.forall_mem_cons.mp hd
    rw [List.cons_append, takeDigits, if_pos h1, ih h2, List.foldl_cons, List.length_cons, Nat.add_assoc,
      Nat.add_comm 1]

theorem dimension_toNat {n : Word} (h : n ≠ 0#32) : dimension n.toNat = some n := by
  have hlt := n.isLt
  have h0 : n.toNat ≠ 0 := fun e => h (BitVec.eq_of_toNat_eq e)
  rw [dimension, if_pos (by omega), BitVec.ofNat_toNat, BitVec.setWidth_eq]

/-- The dimension line for a geometry is read as that geometry (R105). -/
theorem parseDimensions_dimensionText {h w : Word} (hh : h ≠ 0#32) (hw : w ≠ 0#32) :
    parseDimensions (dimensionText h w) = some (h, w) := by
  have hrest : ∀ d ∈ (widthTag ++ decimal w).head?, isDigit d = false := by
    rintro d ⟨⟩; decide
  have hheight := takeDigits_append (decimal_isDigit h) hrest
  have hwidth := takeDigits_append (rest := []) (decimal_isDigit w) nofun
  have hh0 : (decimal h).length ≠ 0 := fun e => decimal_ne_nil h (List.eq_nil_of_length_eq_zero e)
  have hw0 : (decimal w).length ≠ 0 := fun e => decimal_ne_nil w (List.eq_nil_of_length_eq_zero e)
  rw [List.append_nil] at hwidth
  simp only [parseDimensions, dimensionText, afterTag_append, hheight, hwidth, decimal_value, dimension_toNat hh,
    dimension_toNat hw, hh0, hw0, ne_eq, not_true_eq_false, or_self, if_false]

/-! ### The lines of the header -/

theorem readLine_next {l : List Byte} {s : State} (hl : lineEnd ∉ l) (h : Next s (l ++ [lineEnd])) :
    readLine s = .ok l (s.moveCursor (l ++ [lineEnd]).length) := by
  have hs := strSlice_of_next h
  have hr := h.2
  rw [List.length_append] at hs hr ⊢
  exact readLine_line hl hs hr

/-- A line of the loop of HDR_RD that is neither the format line nor a dimension line (R103). -/
theorem readFields_other {l : List Byte} {fuel : Nat} {seen : Bool} {s : State} (hl : lineEnd ∉ l)
    (hf : l ≠ formatText) (hd : l.take 3 ≠ heightTag) (h : Next s (l ++ [lineEnd])) :
    readFields (fuel + 1) seen s = readFields fuel seen (s.moveCursor (l ++ [lineEnd]).length) := by
  rw [readFields, bind_ok (readLine_next hl h), if_neg hf, if_neg hd]

theorem readFields_format {fuel : Nat} {seen : Bool} {s : State} (h : Next s (formatText ++ [lineEnd])) :
    readFields (fuel + 1) seen s = readFields fuel true (s.moveCursor (formatText ++ [lineEnd]).length) := by
  rw [readFields, bind_ok (readLine_next (by decide) h), if_pos rfl]

/-- A dimension line after the format line (R103, R105). -/
theorem readFields_dimension {h w : Word} {fuel : Nat} {s : State} (hh : h ≠ 0#32) (hw : w ≠ 0#32)
    (hn : Next s (dimensionText h w ++ [lineEnd])) :
    readFields (fuel + 1) true s =
      .ok () (((s.moveCursor (dimensionText h w ++ [lineEnd]).length)).setDimensions h w) := by
  have hdigit : ∀ n : Word, lineEnd ∉ decimal n := fun n hmem => absurd (decimal_isDigit n _ hmem) (by decide)
  have hl : lineEnd ∉ dimensionText h w := by
    have h1 : lineEnd ∉ heightTag := by decide
    have h2 : lineEnd ∉ widthTag := by decide
    simp only [dimensionText, List.mem_append, h1, h2, hdigit, or_self, not_false_eq_true]
  have hf : dimensionText h w ≠ formatText := fun e =>
    absurd (congrArg List.head? e) (show some 0x2D#8 ≠ some 0x46#8 by decide)
  have htag : (dimensionText h w).take 3 = heightTag := rfl
  rw [readFields, bind_ok (readLine_next hl hn), if_neg hf, if_pos htag, takeDimensions, if_pos rfl,
    parseDimensions_dimensionText hh hw]
  rfl

/-- The header, line by line. -/
theorem headerText_lines (h w : Word) :
    headerText h w = (magicText ++ [lineEnd]) ++ ((formatText ++ [lineEnd]) ++ (([] ++ [lineEnd]) ++
      (dimensionText h w ++ [lineEnd]))) := by
  simp only [headerText, dimensionText, List.append_assoc, List.nil_append]

/-- HDR_RD's pseudocode over the bytes of a header takes its geometry and leaves the cursor behind it (R103). -/
theorem readHeader_headerText {h w : Word} {s : State} (hh : h ≠ 0#32) (hw : w ≠ 0#32) (hn : Next s (headerText h w)) :
    readHeader s = .ok () ((s.moveCursor (headerText h w).length).setDimensions h w) := by
  rw [headerText_lines] at hn ⊢
  obtain ⟨hmagic, hn1⟩ := next_append hn
  obtain ⟨hformat, hn2⟩ := next_append hn1
  obtain ⟨hempty, hdim⟩ := next_append hn2
  obtain ⟨fuel, hfuel⟩ : ∃ n, (s.moveCursor (magicText ++ [lineEnd]).length).slen.toNat -
      (s.moveCursor (magicText ++ [lineEnd]).length).spos.toNat = n + 3 := by
    have hle := hn1.2
    have hlen : 3 ≤ (formatText ++ [lineEnd]).length := by decide
    rw [List.length_append (as := formatText ++ [lineEnd])] at hle
    exact ⟨_, (Nat.sub_add_cancel (by omega)).symm⟩
  have hmagicLine : raiseIf (magicText != magicText) .malformedHeader (s.moveCursor (magicText ++ [lineEnd]).length) =
      .ok () (s.moveCursor (magicText ++ [lineEnd]).length) := rfl
  rw [readHeader, bind_ok (readLine_next (by decide) hmagic), bind_ok hmagicLine,
    reading_apply, hfuel, readFields_format hformat, readFields_other (by decide) (by decide) (by decide) hempty,
    readFields_dimension hh hw hdim]
  simp only [State.moveCursor_moveCursor, List.length_append, Nat.add_assoc]

end Sys2Proof.Machine
end

section
/-! What IMG2PLN leaves in the planes (R114), and that no quad of an image is the marker of a width outside 8 to 65535:
its largest mantissa is at least 128 (R72 (d), R83, R85). -/

namespace Sys2Proof.Machine

open Sys2Proof.Spec

/-! ### The loop of IMG2PLN -/

/-- The state after the loop of IMG2PLN (R114). -/
def State.quantized (s : State) : State := State.iterate State.quantizePixel s.pixels 0 s

theorem State.quantized_only (s : State) : PlanesOnly s s.quantized := quantizeImage_only _ 0 s

/-- One pixel of IMG2PLN stores the quad of that pixel of the image (R114). -/
theorem State.quantizePixel_rgb {s : State} (h : s.rgb = true) (p : Nat) :
    s.quantizePixel p = s.storeQuad p (imageQuad s p) := by
  rw [State.quantizePixel, imageQuad, h]; rfl

theorem State.quantizePixel_gray {s : State} (h : s.rgb = false) (p : Nat) :
    s.quantizePixel p = s.storePair p (imageQuad s p) := by
  rw [State.quantizePixel, imageQuad, h]; rfl

/-- The loop of IMG2PLN leaves in the planes the quads of the image (R114). -/
theorem State.quantized_imageQuantized (s : State) : ImageQuantized s s.quantized := by
  intro p hp
  show _ = _ ∧ if s.rgb then State.readPln _ (s.pixels + p) = _ ∧ State.readPln _ (2 * s.pixels + p) = _ ∧
    State.readPln _ (3 * s.pixels + p) = _ else State.readPln _ (s.pixels + p) = _
  have hlt : p < s.pixels := hp
  have hcell : ∀ a, a ∈ s.planeCells p →
      s.quantized.readPln a = (s.quantizePixel p).readPln a := fun a ha =>
    State.readPln_quantizeImage (Nat.le_refl _) hp ha
  cases hr : s.rgb with
  | true =>
    rw [State.planeCells, hr, if_pos rfl] at hcell
    rw [if_pos rfl, hcell _ (by simp), hcell _ (by simp), hcell _ (by simp), hcell _ (by simp),
      State.quantizePixel_rgb hr]
    simp only [State.readPln_storeQuad]
    refine ⟨?_, ?_, ?_, if_pos trivial⟩
    · rw [if_neg (by omega), if_neg (by omega), if_neg (by omega), if_pos trivial]
    · rw [if_neg (by omega), if_neg (by omega), if_pos trivial]
    · rw [if_neg (by omega), if_pos trivial]
  | false =>
    rw [State.planeCells, hr, if_neg Bool.false_ne_true] at hcell
    rw [if_neg Bool.false_ne_true, hcell _ (by simp), hcell _ (by simp), State.quantizePixel_gray hr]
    simp only [State.readPln_storePair]
    exact ⟨by rw [if_neg (by omega), if_pos trivial], if_pos trivial⟩

/-- After IMG2PLN the quad of a pixel in the planes is the quad of that pixel of the image; in gray mode its three
mantissas are one (R92, R114). -/
theorem planeQuad_of_quantized {s t : State} (h : ImageQuantized s t) (hw : t.width = s.width)
    (hh : t.height = s.height) (hm : t.mode = s.mode) {p : Nat} (hp : p < s.pixels) : planeQuad t p = imageQuad s p := by
  obtain ⟨h0, h1⟩ := h p hp
  have hrgb : t.rgb = s.rgb := by rw [State.rgb, hm]; rfl
  unfold planeQuad
  rw [hrgb, hw, hh]
  cases hr : s.rgb with
  | true =>
    rw [hr, if_pos rfl] at h1
    obtain ⟨hg, hb, he⟩ := h1
    rw [if_pos rfl, h0, hg, hb, he]
  | false =>
    rw [hr, if_neg Bool.false_ne_true] at h1
    have hgray := floatToRgbe_gray s.cfg (s.readImg p)
    have hq : imageQuad s p = floatToRgbe s.cfg (s.readImg p) (s.readImg p) (s.readImg p) := by
      rw [imageQuad, hr]; rfl
    rw [if_neg Bool.false_ne_true, h0, h1, hq]
    exact congrArg₂ (fun g b => Quad.mk _ g b _) hgray.1.symm hgray.2.symm

/-! ### The largest mantissa -/

/-- The channel of the largest value has a mantissa of at least 128 (R83 to R85). -/
theorem le_mantissa_of_maxKey {neg : NegMode} {free : Byte} {w : Word} (h : threshold ≤ maxKey w) :
    128 ≤ (mantissa neg free (maxKey w >>> 23) w).toNat := by
  have hs : signBit w = false := by
    by_contra hs
    rw [Bool.not_eq_false] at hs
    rw [maxKey, if_pos hs, threshold] at h
    omega
  have hkey : maxKey w = w.toNat := by rw [maxKey, hs]; rfl
  have hw := w.isLt
  have hpat := pattern_eq w hs
  have hfrac := fracField_lt w
  have hx : maxKey w >>> 23 = expField w := by rw [hkey, Nat.shiftRight_eq_div_pow]; omega
  have hx1 : 1 ≤ expField w := by rw [hkey, threshold] at h; omega
  have hmax : max 1 (expField w) = expField w := Nat.max_eq_right hx1
  rw [mantissa_nonneg hs, hx, scaledMagnitude, hmax, if_neg (by omega), significand, if_neg (by omega),
    Nat.add_sub_cancel_left, Nat.shiftRight_eq_div_pow, BitVec.toNat_ofNat]
  omega

/-- A quad is all zero, or one of its mantissas is at least 128 (R83 to R86). -/
theorem floatToRgbe_normal (c : Config) (w0 w1 w2 : Word) :
    floatToRgbe c w0 w1 w2 = ⟨0#8, 0#8, 0#8, 0#8⟩ ∨ 128 ≤ (floatToRgbe c w0 w1 w2).r.toNat ∨
      128 ≤ (floatToRgbe c w0 w1 w2).g.toNat ∨ 128 ≤ (floatToRgbe c w0 w1 w2).b.toNat := by
  unfold floatToRgbe quantize
  generalize operand c w0 = v0, operand c w1 = v1, operand c w2 = v2
  by_cases hk : maxPattern v0 v1 v2 < threshold
  · exact .inl (if_pos hk)
  · simp only [hk, if_false]
    refine .inr ?_
    have hle : threshold ≤ maxPattern v0 v1 v2 := Nat.le_of_not_lt hk
    have hmax : maxPattern v0 v1 v2 = maxKey v0 ∨ maxPattern v0 v1 v2 = maxKey v1 ∨
        maxPattern v0 v1 v2 = maxKey v2 := by
      unfold maxPattern; omega
    rcases hmax with h | h | h <;> rw [h] at hle ⊢
    · exact .inl (le_mantissa_of_maxKey hle)
    · exact .inr (.inl (le_mantissa_of_maxKey hle))
    · exact .inr (.inr (le_mantissa_of_maxKey hle))

/-- The quad of a pixel is not the marker of a width below 8, nor of one above 65535 (R72 (d)). -/
theorem imageQuad_not_marker (s : State) (p : Nat) {w : Nat} (hw : w < 8 ∨ 65535 < w) :
    ¬ ((imageQuad s p).r = 2#8 ∧ (imageQuad s p).g = 2#8 ∧
      (imageQuad s p).b.toNat * 256 + (imageQuad s p).e.toNat = w) := by
  rintro ⟨hr, hg, hbe⟩
  have hb := (imageQuad s p).b.isLt
  have he := (imageQuad s p).e.isLt
  have hb0 : (imageQuad s p).b.toNat = 0 := by omega
  have hnormal : imageQuad s p = ⟨0#8, 0#8, 0#8, 0#8⟩ ∨ 128 ≤ (imageQuad s p).r.toNat ∨
      128 ≤ (imageQuad s p).g.toNat ∨ 128 ≤ (imageQuad s p).b.toNat := by
    unfold imageQuad
    split <;> exact floatToRgbe_normal _ _ _ _
  rcases hnormal with h | h | h | h
  · rw [h] at hr; exact absurd hr (by decide)
  · rw [hr] at h; exact absurd h (by decide)
  · rw [hg] at h; exact absurd h (by decide)
  · omega

end Sys2Proof.Machine
end

section
/-! What ENC_IMAGE writes (R125 to R128): each scanline is one sequence of `PutByte`s, so the whole file is its bytes
written at the cursor, with `YCNT` and `STRAT` beside them. -/

namespace Sys2Proof.Machine

open Sys2Proof.Spec

/-! ### The bytes of a scanline -/

/-- The bytes of a scanline depend on the geometry, the mode and the planes only. -/
theorem scanBytes_congr {s t : State} (hw : t.width = s.width) (hh : t.height = s.height) (hm : t.mode = s.mode)
    (hp : ∀ a, t.readPln a = s.readPln a) (y : Nat) : scanBytes t y = scanBytes s y := by
  have hs : streamPlanes t = streamPlanes s := by rw [streamPlanes, State.rgb, hm]; rfl
  simp only [scanBytes, planeRow, hw, hh, hs, hp]

/-- The bytes of `n` scanlines from `y` on. -/
def imageBytes (s : State) (y n : Nat) : List Byte := (List.range' y n).flatMap (scanBytes s)

theorem imageBytes_succ (s : State) (y n : Nat) : imageBytes s y (n + 1) = scanBytes s y ++ imageBytes s (y + 1) n := by
  rw [imageBytes, List.range'_succ, List.flatMap_cons]; rfl

theorem imageBytes_congr {s t : State} (h : ∀ y, scanBytes t y = scanBytes s y) (y n : Nat) :
    imageBytes t y n = imageBytes s y n := by
  rw [imageBytes, funext h]; rfl

/-- The model's plane row, byte by byte (R22). -/
theorem State.planeRow_eq (s : State) (k y : Nat) : s.planeRow k y = Spec.planeRow s k y := by
  apply List.ext_getElem?
  intro i
  rw [State.planeRow, State.plnSlice_getElem?, Spec.planeRow, List.getElem?_map]
  by_cases hi : i < s.width.toNat
  · rw [if_pos hi, List.getElem?_range hi]; rfl
  · rw [if_neg hi, List.getElem?_eq_none (by rw [List.length_range]; omega)]; rfl

@[simp] theorem planeRow_length (s : State) (k y : Nat) : (planeRow s k y).length = s.width.toNat := by
  rw [planeRow, List.length_map, List.length_range]

theorem streamPlanes_length (s : State) : (streamPlanes s).length = 4 := by
  unfold streamPlanes; split <;> rfl

/-- The quad of pixel `x` of a scanline, as the flat form holds it (R126). -/
theorem State.flatQuad_eq (s : State) (y x : Nat) :
    s.flatQuad y x = (streamPlanes s).map fun k =>
      s.readPln (k * (s.width.toNat * s.height.toNat) + y * s.width.toNat + x) := rfl

@[simp] theorem State.flatQuad_length (s : State) (y x : Nat) : (s.flatQuad y x).length = 4 :=
  (List.length_map _).trans (streamPlanes_length s)

/-- A scanline in RLE form (R125). -/
theorem scanBytes_rle {s : State} (h : rleWidth s.width.toNat = true) (y : Nat) :
    scanBytes s y = marker s.width.toNat ++ (streamPlanes s).flatMap fun k => rleEncodeRow (planeRow s k y) := if_pos h

/-- A flat scanline (R126). -/
theorem scanBytes_flat {s : State} (h : rleWidth s.width.toNat = false) (y : Nat) :
    scanBytes s y = (List.range' 0 s.width.toNat).flatMap (s.flatQuad y) := by
  rw [← List.range_eq_range']
  exact if_neg (h ▸ Bool.false_ne_true)

/-- How long a scanline can be (R123, R125, R126). -/
theorem scanBytes_length_le (s : State) (y : Nat) :
    (scanBytes s y).length ≤ if rleWidth s.width.toNat then 4 + 8 * s.width.toNat else 4 * s.width.toNat := by
  cases h : rleWidth s.width.toNat with
  | true =>
    have hrow : ∀ k, (rleEncodeRow (planeRow s k y)).length ≤ 2 * s.width.toNat := fun k => by
      have := (encodedRowIsGreedyRuns (planeRow s k y)).2.1
      rwa [planeRow_length] at this
    have hsum := List.sum_le_card_nsmul ((streamPlanes s).map fun k => (rleEncodeRow (planeRow s k y)).length)
      (2 * s.width.toNat) (by simp only [List.mem_map]; rintro n ⟨k, -, rfl⟩; exact hrow k)
    rw [List.length_map, streamPlanes_length, smul_eq_mul] at hsum
    rw [scanBytes_rle h, List.length_append, List.length_flatMap, if_pos rfl]
    have hmark : (marker s.width.toNat).length = 4 := rfl
    omega
  | false =>
    rw [scanBytes_flat h, List.length_flatMap, if_neg Bool.false_ne_true]
    simp [Nat.mul_comm]

theorem scanBytes_ne_nil {s : State} (hw : 0 < s.width.toNat) (y : Nat) : scanBytes s y ≠ [] := by
  cases h : rleWidth s.width.toNat with
  | true => rw [scanBytes_rle h]; exact List.cons_ne_nil _ _
  | false =>
    obtain ⟨n, hn⟩ : ∃ n, s.width.toNat = n + 1 := ⟨s.width.toNat - 1, by omega⟩
    rw [scanBytes_flat h, hn, List.range'_succ, List.flatMap_cons]
    refine List.append_ne_nil_of_left_ne_nil (fun e => ?_) _
    exact absurd (s.flatQuad_length y 0) (by rw [e]; decide)

/-! ### A scanline is one sequence of `PutByte`s -/

/-- Two pieces of pseudocode that run alike from every state a first piece can leave run alike after it. -/
theorem bind_congr_of_keeps {R : State → State → Prop} {α : Type} {x : Op Unit} {k l : Op α} {s : State}
    (hx : Op.Keeps R x) (hkl : ∀ t, R s t → k t = l t) : (x >>= fun _ => k) s = (x >>= fun _ => l) s := by
  have hs := hx s
  cases e : x s with
  | ok a t => rw [final_ok e] at hs; rw [bind_ok e, bind_ok e, hkl t hs]
  | error f t => rw [bind_error e, bind_error e]

theorem StreamOnly.planeRow {s t : State} (h : StreamOnly s t) (k y : Nat) : planeRow t k y = planeRow s k y := by
  unfold StreamOnly at h; rw [h]; rfl

theorem StreamOnly.flatQuad {s t : State} (h : StreamOnly s t) (y x : Nat) : t.flatQuad y x = s.flatQuad y x := by
  unfold StreamOnly at h; rw [h]; rfl

theorem encodePlaneRows_eq (y : Nat) (ks : List Nat) (s : State) :
    encodePlaneRows y ks s = putBytes (ks.flatMap fun k => rleEncodeRow (planeRow s k y)) s := by
  induction ks generalizing s with
  | nil => rfl
  | cons k ks ih =>
    have hrow : encodePlaneRow k y s = putBytes (rleEncodeRow (planeRow s k y)) s := by
      exact congrArg (fun row => putBytes (rleEncodeRow row) s) (s.planeRow_eq k y)
    rw [encodePlaneRows, List.flatMap_cons, putBytes_append, bind_apply, hrow, ← bind_apply]
    refine bind_congr_of_keeps (putBytes_keeps _) fun t ht => ?_
    simp only [ih, ht.planeRow]

theorem encodeScanFlat_eq (y n x : Nat) (s : State) :
    forUp (fun x => reading (State.flatQuad y x) putBytes) n x s =
      putBytes ((List.range' x n).flatMap (s.flatQuad y)) s := by
  induction n generalizing x s with
  | zero => rfl
  | succ n ih =>
    rw [forUp_succ, List.range'_succ, List.flatMap_cons, putBytes_append, bind_apply, reading_apply, ← bind_apply]
    refine bind_congr_of_keeps (putBytes_keeps _) fun t ht => ?_
    have hq : t.flatQuad y = s.flatQuad y := funext (ht.flatQuad y)
    rw [ih, hq]

theorem State.useRle_eq (s : State) : s.useRle = rleWidth s.width.toNat := (Bool.decide_and _ _).symm

/-- A scanline in the form its strategy selects (R127). -/
theorem encodeScanAs_eq (y : Nat) (s : State) : encodeScanAs s.useRle y s = putBytes (scanBytes s y) s := by
  rw [State.useRle_eq]
  cases h : rleWidth s.width.toNat with
  | true =>
    rw [scanBytes_rle h, putBytes_append]
    show encodeScanRle y s = _
    rw [encodeScanRle, bind_apply, reading_apply, ← bind_apply]
    refine bind_congr_of_keeps (putBytes_keeps _) fun t ht => ?_
    rw [reading_apply, encodePlaneRows_eq]
    unfold StreamOnly at ht
    rw [ht]
    rfl
  | false =>
    rw [scanBytes_flat h]
    exact encodeScanFlat_eq y s.width.toNat 0 s

theorem encodeScan_eq (s : State) :
    encodeScan s = (putBytes (scanBytes s s.ycnt.toNat) >>= fun _ => update (State.endScan s.useRle)) s := by
  rw [bind_apply, ← encodeScanAs_eq, ← bind_apply]
  rfl

end Sys2Proof.Machine
end

section
/-! ENC_IMAGE as one file (R128): what it has written when it completes, and that it completes wherever there is
room. -/

namespace Sys2Proof.Machine

open Sys2Proof.Spec

/-- A geometry that fits has a row to write (R166). -/
theorem State.width_pos {planes : Nat} {useImg : Bool} {s : State} (h : s.geomFits planes useImg = true) :
    0 < s.width.toNat :=
  Nat.pos_of_ne_zero fun e => ((State.geomFits_iff _ _ s).mp h).1 (BitVec.eq_of_toNat_eq e)

/-- Writing a file leaves the geometry and the parameters (R10, R128). -/
theorem FileOutOnly.geometry {s t : State} (h : FileOutOnly s t) :
    t.width = s.width ∧ t.height = s.height ∧ t.mode = s.mode ∧ t.cfg = s.cfg := by
  unfold FileOutOnly at h
  rw [h]
  exact ⟨rfl, rfl, rfl, rfl⟩

/-! ### Bytes written, `YCNT` and `STRAT` aside -/

/-- `t` is `s` after `PutByte` of `bs` in order with room for all of them (R48), up to `YCNT` and the bits of `STATUS`
other than `ERR`. -/
structure Wrote (bs : List Byte) (s t : State) : Prop where
  room : s.spos.toNat + bs.length ≤ s.cfg.strBytes.toNat
  only : t = { s.pushBytes bs with ycnt := t.ycnt, status := t.status }
  err : t.err = s.err

theorem State.pushBytes_scanState (bs : List Byte) (s : State) (y st : Word) :
    ({ s with ycnt := y, status := st } : State).pushBytes bs = { s.pushBytes bs with ycnt := y, status := st } := by
  induction bs generalizing s with
  | nil => rfl
  | cons b bs ih => exact ih (s.pushByte b)

namespace Wrote

variable {as bs : List Byte} {s t u : State}

theorem scanOut (h : Wrote bs s t) : ScanOutOnly s t := by
  have hpush := s.pushBytes_only bs
  have honly := h.only
  unfold StreamOnly at hpush
  unfold ScanOutOnly
  rw [hpush] at honly
  rw [honly]

theorem spos (h : Wrote bs s t) : t.spos = s.spos + BitVec.ofNat 32 bs.length := by
  rw [h.only]; exact s.pushBytes_spos bs

theorem spos_toNat (h : Wrote bs s t) : t.spos.toNat = s.spos.toNat + bs.length := by
  rw [h.only]; exact State.pushBytes_spos_toNat h.room

theorem trans (h : Wrote as s t) (k : Wrote bs t u) : Wrote (as ++ bs) s u where
  room := by
    obtain ⟨-, -, -, hcfg⟩ := h.scanOut.fileOut.geometry
    have hroom := k.room
    rw [h.spos_toNat, hcfg] at hroom
    rw [List.length_append]
    omega
  only := by
    have hpush : t.pushBytes bs = { s.pushBytes (as ++ bs) with ycnt := t.ycnt, status := t.status } := by
      rw [State.pushBytes_append, ← State.pushBytes_scanState, ← h.only]
    have honly := k.only
    rw [hpush] at honly
    exact honly
  err := k.err.trans h.err

/-- The bytes written come next in the stream once the cursor is back at the first of them (R23, R48). -/
theorem next (h : Wrote bs s t) (hbs : bs ≠ []) : Next { t with spos := s.spos } bs := by
  have hread : ∀ a, State.readStr { t with spos := s.spos } a = (s.pushBytes bs).readStr a := fun a => by
    rw [h.only]; rfl
  have hslen : t.slen.toNat = max s.slen.toNat (s.spos.toNat + bs.length) := by
    rw [h.only]; exact State.pushBytes_slen_toNat h.room hbs
  refine ⟨fun i hi => ?_, ?_⟩
  · show State.readStr { t with spos := s.spos } (s.spos.toNat + i) = _
    rw [hread, State.readStr_pushBytes h.room, if_pos (Nat.le_add_right _ _), Nat.add_sub_cancel_left,
      List.getElem?_eq_getElem hi]
    rfl
  · show s.spos.toNat + bs.length ≤ t.slen.toNat
    omega

end Wrote

/-! ### One scanline and all of them -/

theorem putBytes_ok_iff {bs : List Byte} {s t : State} (h : s.spos.toNat ≤ s.cfg.strBytes.toNat ∨ bs ≠ []) :
    putBytes bs s = .ok () t ↔ s.spos.toNat + bs.length ≤ s.cfg.strBytes.toNat ∧ t = s.pushBytes bs := by
  rw [putBytes_apply bs s h]
  by_cases hroom : s.spos.toNat + bs.length ≤ s.cfg.strBytes.toNat
  · simp [hroom, eq_comm]
  · simp [hroom]

theorem wrote_pushBytes {bs : List Byte} {s : State} (h : s.spos.toNat + bs.length ≤ s.cfg.strBytes.toNat) :
    Wrote bs s (s.pushBytes bs) where
  room := h
  only := rfl
  err := by rw [State.err_congr]; rw [s.pushBytes_only bs]

theorem Wrote.endScan {bs : List Byte} {s t : State} (h : Wrote bs s t) (b : Bool) : Wrote bs s (t.endScan b) where
  room := h.room
  only := by
    have honly : t.endScan b = { t with ycnt := (t.endScan b).ycnt, status := (t.endScan b).status } := rfl
    rw [honly, h.only]
  err := (t.err_endScan b).trans h.err

theorem Wrote.firstScan {bs : List Byte} {s t : State} (h : Wrote bs s t) : Wrote bs s t.firstScan where
  room := h.room
  only := by
    have honly : t.firstScan = { t with ycnt := t.firstScan.ycnt } := rfl
    rw [honly, h.only]
  err := h.err

/-- A scanline that finds room (R127). -/
theorem encodeScan_room {s : State}
    (h : s.spos.toNat + (scanBytes s s.ycnt.toNat).length ≤ s.cfg.strBytes.toNat) :
    encodeScan s = .ok () ((s.pushBytes (scanBytes s s.ycnt.toNat)).endScan s.useRle) := by
  rw [encodeScan_eq, bind_ok (putBytes_room h)]
  rfl

/-- A scanline that is written found room, and is its bytes (R127). -/
theorem encodeScan_wrote {s t : State} (hw : 0 < s.width.toNat) (e : encodeScan s = .ok () t) :
    Wrote (scanBytes s s.ycnt.toNat) s t ∧ t.ycnt = s.ycnt + 1#32 := by
  have hbs := scanBytes_ne_nil hw s.ycnt.toNat
  rw [encodeScan_eq, bind_apply] at e
  cases hb : putBytes (scanBytes s s.ycnt.toNat) s with
  | error f u => rw [hb] at e; nomatch e
  | ok a u =>
    rw [hb] at e
    injection e with _ e
    subst e
    obtain ⟨hroom, rfl⟩ := (putBytes_ok_iff (.inr hbs)).mp hb
    exact ⟨(wrote_pushBytes hroom).endScan _, by rw [State.endScan_ycnt, s.pushBytes_only]⟩

theorem ScanOutOnly.readPln {s t : State} (h : ScanOutOnly s t) (a : Nat) : t.readPln a = s.readPln a := by
  unfold ScanOutOnly at h; rw [h]; rfl

theorem ScanOutOnly.scanBytes {s t : State} (h : ScanOutOnly s t) (y : Nat) : scanBytes t y = scanBytes s y := by
  obtain ⟨hwidth, hheight, hmode, -⟩ := h.fileOut.geometry
  exact scanBytes_congr hwidth hheight hmode h.readPln y

/-- The scanlines that are left of an image, written (R128). -/
theorem encodeScans_wrote {n : Nat} {s t : State} (hw : 0 < s.width.toNat) (hy : s.ycnt.toNat + n ≤ s.height.toNat)
    (hs : s.spos.toNat ≤ s.cfg.strBytes.toNat) (e : times encodeScan n s = .ok () t) :
    Wrote (imageBytes s s.ycnt.toNat n) s t := by
  induction n generalizing s with
  | zero =>
    rw [times_zero] at e
    injection e with _ e
    exact e ▸ wrote_pushBytes (bs := []) hs
  | succ n ih =>
    rw [times_succ, bind_apply] at e
    cases hb : encodeScan s with
    | error f u => rw [hb] at e; nomatch e
    | ok a u =>
      rw [hb] at e
      obtain ⟨hu, hyu⟩ := encodeScan_wrote hw hb
      have honly := hu.scanOut
      obtain ⟨hwidth, hheight, -, hcfg⟩ := honly.fileOut.geometry
      have hsucc : u.ycnt.toNat = s.ycnt.toNat + 1 := hyu ▸ ycnt_succ_toNat hy s.height.isLt
      have hroom := hu.room
      have hk := ih (hwidth ▸ hw) (by rw [hsucc, hheight]; omega) (by rw [hu.spos_toNat, hcfg]; exact hroom) e
      rw [imageBytes_congr honly.scanBytes, hsucc] at hk
      rw [imageBytes_succ]
      exact hu.trans hk

/-- Scanlines that find room are written (R127, R128). -/
theorem encodeScans_room {n m : Nat} {s : State} (hw : 0 < s.width.toNat) (hy : s.ycnt.toNat + n ≤ s.height.toNat)
    (hm : ∀ y, (scanBytes s y).length ≤ m) (hroom : s.spos.toNat + n * m ≤ s.cfg.strBytes.toNat) :
    ∃ t, times encodeScan n s = .ok () t := by
  induction n generalizing s with
  | zero => exact ⟨s, times_zero _ s⟩
  | succ n ih =>
    have hlen := hm s.ycnt.toNat
    rw [Nat.succ_mul] at hroom
    have hb := encodeScan_room (s := s) (by omega)
    obtain ⟨hu, hyu⟩ := encodeScan_wrote hw hb
    rw [times_succ, bind_ok hb]
    generalize State.endScan _ _ = u at hu hyu ⊢
    have honly := hu.scanOut
    obtain ⟨hwidth, hheight, -, hcfg⟩ := honly.fileOut.geometry
    have hsucc : u.ycnt.toNat = s.ycnt.toNat + 1 := hyu ▸ ycnt_succ_toNat hy s.height.isLt
    exact ih (hwidth ▸ hw) (by rw [hsucc, hheight]; omega) (fun y => by rw [honly.scanBytes]; exact hm y)
      (by rw [hu.spos_toNat, hcfg]; omega)

/-! ### The whole file -/

/-- The bytes ENC_IMAGE writes from the planes of `s` (R128). -/
def fileBytes (s : State) : List Byte := headerText s.height s.width ++ imageBytes s 0 s.height.toNat

/-- ENC_IMAGE behind its quantization: the header, then every scanline (R128). -/
def writeFile : Op Unit := do
  writeHeader
  update State.firstScan
  reading (fun s => s.height.toNat) (times encodeScan)

theorem headerText_ne_nil (h w : Word) : headerText h w ≠ [] := by
  rw [headerText_lines]; exact List.cons_ne_nil _ _

theorem writeFile_wrote {s t : State} (hw : 0 < s.width.toNat) (e : writeFile s = .ok () t) :
    Wrote (fileBytes s) s t := by
  rw [writeFile, bind_apply] at e
  cases hb : writeHeader s with
  | error f u => rw [hb] at e; nomatch e
  | ok a u =>
    rw [hb] at e
    obtain ⟨hroom, rfl⟩ := (putBytes_ok_iff (.inr (headerText_ne_nil s.height s.width))).mp hb
    have hu := (wrote_pushBytes hroom).firstScan
    have honly := hu.scanOut
    generalize hv : (s.pushBytes (headerText s.height s.width)).firstScan = v at hu honly
    have e : times encodeScan v.height.toNat v = .ok () t := by rw [← hv]; exact e
    obtain ⟨hwidth, hheight, -, hcfg⟩ := honly.fileOut.geometry
    have hy : v.ycnt.toNat = 0 := by rw [← hv]; rfl
    have hscans := encodeScans_wrote (hwidth ▸ hw) (by omega) (by rw [hu.spos_toNat, hcfg]; exact hroom) e
    rw [imageBytes_congr honly.scanBytes, hy, hheight] at hscans
    exact hu.trans hscans

theorem writeFile_room {m : Nat} {s : State} (hw : 0 < s.width.toNat) (hm : ∀ y, (scanBytes s y).length ≤ m)
    (h : s.spos.toNat + (headerText s.height s.width).length + s.height.toNat * m ≤ s.cfg.strBytes.toNat) :
    ∃ t, writeFile s = .ok () t := by
  have hroom : s.spos.toNat + (headerText s.height s.width).length ≤ s.cfg.strBytes.toNat := by omega
  have hu := (wrote_pushBytes hroom).firstScan
  have honly := hu.scanOut
  have hheader : writeHeader s = .ok () (s.pushBytes (headerText s.height s.width)) := putBytes_room hroom
  rw [writeFile, bind_ok hheader, bind_ok (update_apply _ _), reading_apply]
  have hy : (s.pushBytes (headerText s.height s.width)).firstScan.ycnt.toNat = 0 := rfl
  generalize (s.pushBytes (headerText s.height s.width)).firstScan = v at hu honly hy ⊢
  obtain ⟨hwidth, hheight, -, hcfg⟩ := honly.fileOut.geometry
  exact encodeScans_room (hwidth ▸ hw) (by omega) (fun y => by rw [honly.scanBytes]; exact hm y)
    (by rw [hu.spos_toNat, hcfg, hheight]; exact h)

/-- ENC_IMAGE with its check passed quantizes the image and writes the file (R128). -/
theorem exec_encImage {s : State} (hr : s.Ready) (hg : s.geomFits s.planes true = true) :
    exec .encImage s = settle (Instr.word .encImage) (writeFile s.quantized) := by
  refine (command_ready hr).trans (congrArg (settle _) ?_)
  rw [bind_check (checkGeom_apply _ _ s), if_pos hg, bind_ok (quantizeImage_apply s)]
  rfl

/-- A command that answers a state in which no fault is latched has run to its end (R167). -/
theorem ok_of_settle {w : Word} {r : EStateM.Result FaultCode State Unit} {t : State} (h : settle w r = .next t)
    (he : t.err = 0#4) : r = .ok () t := by
  cases r with
  | ok a u => injection h with h; rw [h]
  | error f u =>
    injection h with h
    rw [← h, State.err_enterFault] at he
    exact absurd he f.code_ne_zero

/-- ENC_IMAGE that completes has written the file of the planes it built (R128). -/
theorem exec_encImage_wrote {s t : State} (hr : s.Ready) (hg : s.geomFits s.planes true = true)
    (h : exec .encImage s = .next t) (he : t.err = 0#4) : Wrote (fileBytes s.quantized) s.quantized t := by
  obtain ⟨hwidth, -⟩ := s.quantized_only.fileOut.geometry
  rw [exec_encImage hr hg] at h
  exact writeFile_wrote (hwidth ▸ State.width_pos hg) (ok_of_settle h he)

/-- ENC_IMAGE completes wherever its longest file has room (R123, R128). -/
theorem exec_encImage_room {s : State} (hr : s.Ready) (hg : s.geomFits s.planes true = true)
    (hroom : s.spos.toNat + (headerText s.height s.width).length +
      s.height.toNat * (if rleWidth s.width.toNat then 4 + 8 * s.width.toNat else 4 * s.width.toNat) ≤
        s.cfg.strBytes.toNat) :
    ∃ t, exec .encImage s = .next t ∧ t.err = 0#4 := by
  have honly := s.quantized_only
  obtain ⟨hwidth, hheight, -, hcfg⟩ := honly.fileOut.geometry
  have hspos : s.quantized.spos = s.spos := by rw [honly]
  have herr : s.quantized.err = s.err := State.err_congr (by rw [honly])
  have hw : 0 < s.quantized.width.toNat := hwidth ▸ State.width_pos hg
  rw [← hwidth, ← hheight, ← hspos, ← hcfg] at hroom
  obtain ⟨t, ht⟩ := writeFile_room hw (scanBytes_length_le s.quantized) hroom
  exact ⟨t, by rw [exec_encImage hr hg, ht, settle_ok], (writeFile_wrote hw ht).err.trans (herr.trans hr.2)⟩

end Sys2Proof.Machine
end

section
/-! DEC_IMAGE over the file ENC_IMAGE wrote (O41): every byte the decoder stores is the byte that its cell already holds,
so it leaves the planes as they read, and the cursor at the end of the file. -/

namespace Sys2Proof.Machine

open Sys2Proof.Spec

/-! ### Storing what is there -/

/-- `t` is `s` with `PLN` written, and every cell of it reads as before. -/
def Restores (s t : State) : Prop := PlanesOnly s t ∧ ∀ a, t.readPln a = s.readPln a

theorem restores_chains : Chains Restores where
  refl _ := ⟨rfl, fun _ => rfl⟩
  trans _ _ _ h k := ⟨planesOnly_chains.trans _ _ _ h.1 k.1, fun a => (k.2 a).trans (h.2 a)⟩

theorem restores_moveCursor_zero (s : State) : Restores (s.moveCursor 0) s := by
  rw [State.moveCursor_zero]; exact restores_chains.refl s

theorem Restores.moveCursor {s t : State} (h : Restores s t) (n : Nat) : Restores (s.moveCursor n) (t.moveCursor n) :=
  ⟨congrArg (State.moveCursor n) h.1, h.2⟩

theorem Restores.width {s t : State} (h : Restores s t) : t.width = s.width := by rw [h.1]

theorem restores_writePln {a : Nat} {v : Byte} {s : State} (h : v = s.readPln a) : Restores s (s.writePln a v) := by
  refine ⟨rfl, fun b => ?_⟩
  rw [State.readPln_writePln]
  split
  · rename_i hb; rw [h, hb]
  · rfl

/-- A row stored over itself. -/
theorem restores_fillRow {dst : Option Nat} {w : Nat} {row : List Byte} {s : State}
    (h : ∀ a, dst = some a → row = (List.range w).map fun i => s.readPln (a + i)) :
    Restores s (s.fillRow dst 0 row) := by
  refine ⟨s.fillRow_only dst 0 row, fun x => ?_⟩
  rw [State.readPln_fillRow]
  cases dst with
  | none => rfl
  | some a =>
    simp only [Nat.add_zero]
    by_cases hx : a ≤ x
    · rw [if_pos hx, h a rfl, List.getElem?_map]
      by_cases hw : x - a < w
      · rw [List.getElem?_range hw, Option.map_some, Option.getD_some, Nat.add_sub_cancel' hx]
      · rw [List.getElem?_eq_none (by rw [List.length_range]; omega)]; rfl
    · rw [if_neg hx]

/-- A pixel stored over itself. -/
theorem restores_storeFlat {x : Nat} {ds : List (Option Nat)} {vs : List Byte} {rd : Nat → Byte} {s : State}
    (hs : ∀ a, s.readPln a = rd a) (h : List.Forall₂ (fun d v => ∀ a, d = some a → v = rd (a + x)) ds vs) :
    Restores s (s.storeFlat x ds vs) := by
  induction h generalizing s with
  | nil => exact restores_chains.refl s
  | @cons d v ds vs hd hds ih =>
    cases d with
    | none => exact ih hs
    | some a =>
      have hw : Restores s (s.writePln (a + x) v) := restores_writePln ((hd a rfl).trans (hs _).symm)
      exact restores_chains.trans _ _ _ hw (ih fun b => (hw.2 b).trans (hs b))

/-! ### The rows and the pixels of a scanline -/

/-- Written runs are readable (R66). -/
theorem readable_of_written {r : Run} (h : r.Written) : r.Readable := by
  cases r with
  | dump bs => exact ⟨h.1, Nat.le_trans h.2.1 (by decide)⟩
  | rep n v => exact ⟨Nat.le_trans (by decide) h.1, h.2⟩

/-- The row decoder reads back what the row encoder wrote (R121, R136). -/
theorem rleDecodeRow_rleEncodeRow {dst : Option Nat} {row : List Byte} {s : State} (hw : row.length = s.width.toNat)
    (h : Next s (rleEncodeRow row)) :
    rleDecodeRow dst s = .ok () ((s.moveCursor (rleEncodeRow row).length).fillRow dst 0 row) := by
  obtain ⟨rs, hbytes, hrow, hwritten, -⟩ := rleEncodeRow_runs row
  have hfills : Fills s.width.toNat rs := ⟨fun r hr => readable_of_written (hwritten r hr), by rw [hrow, hw]⟩
  rw [hbytes] at h ⊢
  rw [rleDecodeRow_readable hfills h, hrow, State.fillRow_moveCursor]

/-- The rows of an RLE scanline decoded over themselves (R141). -/
theorem decodeRows_restores {rd : Nat → Byte} {w : Nat} {ds : List (Option Nat)} {rows : List (List Byte)} {s : State}
    (hs : ∀ a, s.readPln a = rd a) (hw : s.width.toNat = w)
    (h : List.Forall₂ (fun d row => row.length = w ∧ ∀ a, d = some a → row = (List.range w).map fun i => rd (a + i))
      ds rows)
    (hn : Next s (rows.flatMap rleEncodeRow)) :
    ∃ t, decodeRows ds s = .ok () t ∧ Restores (s.moveCursor (rows.flatMap rleEncodeRow).length) t := by
  induction h generalizing s with
  | nil => exact ⟨s, rfl, restores_moveCursor_zero s⟩
  | @cons d row ds rows hd hds ih =>
    rw [List.flatMap_cons] at hn ⊢
    obtain ⟨hrow, hrest⟩ := next_append hn
    have hdec := rleDecodeRow_rleEncodeRow (dst := d) (hd.1.trans hw.symm) hrow
    have hfill : Restores (s.moveCursor (rleEncodeRow row).length)
        ((s.moveCursor (rleEncodeRow row).length).fillRow d 0 row) := restores_fillRow (w := w) fun a ha => by
      rw [hd.2 a ha]
      exact List.map_congr_left fun i _ => (hs (a + i)).symm
    obtain ⟨t, ht, hrt⟩ := ih (fun a => (hfill.2 a).trans (hs a)) ((congrArg BitVec.toNat hfill.width).trans hw)
      (hfill.1.next.mpr hrest)
    refine ⟨t, by rw [decodeRows, bind_ok hdec, ht], ?_⟩
    rw [List.length_append, ← State.moveCursor_moveCursor]
    exact restores_chains.trans _ _ _ (hfill.moveCursor _) hrt

/-- The pixels of a flat scanline decoded over themselves (R141). -/
theorem flatPixels_restores {rd : Nat → Byte} {ds : List (Option Nat)} {f : Nat → List Byte} {n x : Nat} {s : State}
    (hs : ∀ a, s.readPln a = rd a)
    (h : ∀ x, List.Forall₂ (fun d v => ∀ a, d = some a → v = rd (a + x)) ds (f x))
    (hn : Next s ((List.range' x n).flatMap f)) :
    ∃ t, forUp (fun x => flatPixel x ds) n x s = .ok () t ∧
      Restores (s.moveCursor ((List.range' x n).flatMap f).length) t := by
  induction n generalizing x s with
  | zero => exact ⟨s, rfl, restores_moveCursor_zero s⟩
  | succ n ih =>
    rw [List.range'_succ, List.flatMap_cons] at hn ⊢
    obtain ⟨hpix, hrest⟩ := next_append hn
    have hlen : ds.length = (f x).length := (h x).length_eq
    have hle := hpix.2
    have hdec : flatPixel x ds s = .ok () ((s.moveCursor (f x).length).storeFlat x ds (f x)) := by
      rw [flatPixel_apply, if_pos (by omega), hlen, strSlice_of_next hpix, State.storeFlat_moveCursor]
    have hstore : Restores (s.moveCursor (f x).length) ((s.moveCursor (f x).length).storeFlat x ds (f x)) :=
      restores_storeFlat hs (h x)
    obtain ⟨t, ht, hrt⟩ := ih (fun a => (hstore.2 a).trans (hs a)) (hstore.1.next.mpr hrest)
    refine ⟨t, by rw [forUp_succ, bind_ok hdec, ht], ?_⟩
    rw [List.length_append, ← State.moveCursor_moveCursor]
    exact restores_chains.trans _ _ _ (hstore.moveCursor _) hrt

/-! ### A scanline -/

/-- The stream planes and their destinations: what is not dropped goes to the row it was written from (R125, R126,
R140). -/
theorem State.destinations_streamPlanes (s : State) (y : Nat) :
    List.Forall₂ (fun d k => ∀ a, d = some a → s.rowBase k y = a) (s.destinations y) (streamPlanes s) := by
  unfold streamPlanes
  cases hr : s.rgb with
  | true => rw [State.destinations_rgb hr]; simp
  | false => rw [State.destinations_gray hr]; simp

/-- The quad at the head of a flat scanline is not the marker of its width (R72 (d), R144). -/
def NotMarked (s : State) (y : Nat) : Prop :=
  rleWidth s.width.toNat = false →
    ¬ ((planeQuad s (y * s.width.toNat)).r = 2#8 ∧ (planeQuad s (y * s.width.toNat)).g = 2#8 ∧
      (planeQuad s (y * s.width.toNat)).b.toNat * 256 + (planeQuad s (y * s.width.toNat)).e.toNat = s.width.toNat)

theorem notMarked_congr {s t : State} (hw : t.width = s.width) (hh : t.height = s.height) (hm : t.mode = s.mode)
    (hp : ∀ a, t.readPln a = s.readPln a) (y : Nat) : NotMarked t y ↔ NotMarked s y := by
  have hr : t.rgb = s.rgb := by rw [State.rgb, hm]; rfl
  have hq : ∀ p, planeQuad t p = planeQuad s p := fun p => by simp only [planeQuad, hr, hw, hh, hp]
  simp only [NotMarked, hw, hq]

theorem marker_value {w : Nat} (h : rleWidth w = true) :
    (BitVec.ofNat 8 (w / 256)).toNat * 256 + (BitVec.ofNat 8 (w % 256)).toNat = w := by
  have hw := of_decide_eq_true h
  simp only [BitVec.toNat_ofNat]
  omega

/-- The first quad of a flat scanline is that of its first pixel in the planes (R126). -/
theorem State.flatQuad_zero (s : State) (y : Nat) :
    s.flatQuad y 0 = [(planeQuad s (y * s.width.toNat)).r, (planeQuad s (y * s.width.toNat)).g,
      (planeQuad s (y * s.width.toNat)).b, (planeQuad s (y * s.width.toNat)).e] := by
  rw [State.flatQuad_eq, streamPlanes, planeQuad]
  cases s.rgb <;> simp

/-- The marker test tells the two forms of a written scanline apart (R124, R139). -/
theorem isMarker_scanBytes {s : State} {y : Nat} (hw : 0 < s.width.toNat) (hm : NotMarked s y)
    (hn : Next s (scanBytes s y)) : isMarker s = rleWidth s.width.toNat := by
  cases h : rleWidth s.width.toNat with
  | true =>
    rw [scanBytes_rle h] at hn
    obtain ⟨hmark, -⟩ := next_append hn
    have hq := nextQuad_of_next hmark
    rw [isMarker_iff, hq]
    exact ⟨hmark.2, ⟨rfl, rfl⟩, marker_value h⟩
  | false =>
    obtain ⟨n, hwn⟩ : ∃ n, s.width.toNat = n + 1 := ⟨s.width.toNat - 1, by omega⟩
    rw [scanBytes_flat h, hwn, List.range'_succ, List.flatMap_cons, State.flatQuad_zero] at hn
    have hq := nextQuad_of_next (next_append hn).1
    rw [Bool.eq_false_iff]
    intro he
    obtain ⟨-, ⟨hr, hg⟩, hbe⟩ := (isMarker_iff s).mp he
    rw [hq] at hr hg hbe
    exact hm h ⟨hr, hg, hbe⟩

/-- A written scanline decoded over itself (R141). -/
theorem decodeScanAs_restores {s : State} {y : Nat} (hn : Next s (scanBytes s y)) :
    ∃ t, decodeScanAs (rleWidth s.width.toNat) (s.destinations y) s = .ok () t ∧
      Restores (s.moveCursor (scanBytes s y).length) t := by
  have hplanes := s.destinations_streamPlanes y
  cases h : rleWidth s.width.toNat with
  | true =>
    rw [scanBytes_rle h] at hn ⊢
    obtain ⟨hmark, hrows⟩ := next_append hn
    have hskip : skipMarker s = .ok () (s.moveCursor (marker s.width.toNat).length) := skipMarker_ok hmark.2
    rw [← List.flatMap_map] at hrows ⊢
    have hover : List.Forall₂ (fun d row => row.length = s.width.toNat ∧
        ∀ a, d = some a → row = (List.range s.width.toNat).map fun i => s.readPln (a + i))
        (s.destinations y) ((streamPlanes s).map fun k => planeRow s k y) := by
      rw [List.forall₂_map_right_iff]
      exact hplanes.imp fun d k hd => ⟨planeRow_length s k y, fun a ha => hd a ha ▸ rfl⟩
    obtain ⟨t, ht, hrt⟩ := decodeRows_restores (s := s.moveCursor _) (fun _ => rfl) rfl hover hrows
    refine ⟨t, ?_, ?_⟩
    · show decodeScanRle _ s = _
      rw [decodeScanRle, bind_ok hskip, ht]
    · rw [List.length_append, ← State.moveCursor_moveCursor]
      exact hrt
  | false =>
    rw [scanBytes_flat h] at hn ⊢
    exact flatPixels_restores (fun _ => rfl) (fun x => by
      rw [State.flatQuad_eq, List.forall₂_map_right_iff]
      exact hplanes.imp fun d k hd a ha => hd a ha ▸ rfl) hn

/-! ### All scanlines -/

/-- `t` is `s` after `n` bytes have been decoded into cells that held what they stand for, up to `YCNT` and the bits of
`STATUS` other than `ERR`. -/
structure Reread (n : Nat) (s t : State) : Prop where
  only : t = { s with pln := t.pln, spos := s.spos + BitVec.ofNat 32 n, ycnt := t.ycnt, status := t.status }
  pln : ∀ a, t.readPln a = s.readPln a
  err : t.err = s.err

theorem Reread.trans {m n : Nat} {s t u : State} (h : Reread m s t) (k : Reread n t u) : Reread (m + n) s u where
  only := by
    have hk := k.only
    rw [h.only] at hk
    rw [hk, BitVec.ofNat_add, ← BitVec.add_assoc]
  pln a := (k.pln a).trans (h.pln a)
  err := k.err.trans h.err

theorem Reread.next {n : Nat} {s t : State} (h : Reread n s t) {bs : List Byte} :
    Next t bs ↔ Next (s.moveCursor n) bs := by
  rw [h.only]; rfl

theorem Reread.scanBytes {n : Nat} {s t : State} (h : Reread n s t) (y : Nat) : scanBytes t y = scanBytes s y :=
  scanBytes_congr (by rw [h.only]) (by rw [h.only]) (by rw [h.only]) h.pln y

theorem Reread.notMarked {n : Nat} {s t : State} (h : Reread n s t) (y : Nat) : NotMarked t y ↔ NotMarked s y :=
  notMarked_congr (by rw [h.only]) (by rw [h.only]) (by rw [h.only]) h.pln y

theorem Restores.reread {n : Nat} {s t : State} (h : Restores (s.moveCursor n) t) (b : Bool) :
    Reread n s (t.endScan b) where
  only := by rw [h.1]; rfl
  pln a := h.2 a
  err := (t.err_endScan b).trans (State.err_congr (by rw [h.1]; rfl))

/-- The next scanline of a written image, decoded over itself (R141). -/
theorem decodeScan_reread {s : State} (hw : 0 < s.width.toNat) (hm : NotMarked s s.ycnt.toNat)
    (hn : Next s (scanBytes s s.ycnt.toNat)) :
    ∃ t, decodeScan s = .ok () t ∧ Reread (scanBytes s s.ycnt.toNat).length s t := by
  obtain ⟨t, ht, hrt⟩ := decodeScanAs_restores hn
  refine ⟨t.endScan (rleWidth s.width.toNat), ?_, hrt.reread _⟩
  rw [decodeScan, reading_apply, isMarker_scanBytes hw hm hn, bind_ok ht]
  rfl

/-- The scanlines that are left of a written image, decoded over themselves (R142). -/
theorem decodeScans_reread {n : Nat} {s : State} (hw : 0 < s.width.toNat) (hy : s.ycnt.toNat + n ≤ s.height.toNat)
    (hm : ∀ y, y < s.height.toNat → NotMarked s y) (hn : Next s (imageBytes s s.ycnt.toNat n)) :
    ∃ t, times decodeScan n s = .ok () t ∧ Reread (imageBytes s s.ycnt.toNat n).length s t := by
  induction n generalizing s with
  | zero =>
    refine ⟨s, times_zero _ s, ?_, fun _ => rfl, rfl⟩
    show s = { s with spos := s.spos + 0#32 }
    rw [BitVec.add_zero]
  | succ n ih =>
    rw [imageBytes_succ] at hn ⊢
    obtain ⟨hscan, hrest⟩ := next_append hn
    obtain ⟨t, ht, hrt⟩ := decodeScan_reread hw (hm _ (by omega)) hscan
    have hyt : t.ycnt.toNat = s.ycnt.toNat + 1 := decodeScan_ycnt ht ▸ ycnt_succ_toNat hy s.height.isLt
    have hwidth : t.width = s.width := by rw [hrt.only]
    have hheight : t.height = s.height := by rw [hrt.only]
    have hnt : Next t (imageBytes t t.ycnt.toNat n) := by
      rw [imageBytes_congr hrt.scanBytes, hyt]
      exact hrt.next.mpr hrest
    obtain ⟨u, hu, hru⟩ := ih (hwidth ▸ hw) (by rw [hyt, hheight]; omega)
      (fun y hlt => (hrt.notMarked y).mpr (hm y (hheight ▸ hlt))) hnt
    refine ⟨u, by rw [times_succ, bind_ok ht, hu], ?_⟩
    rw [imageBytes_congr hrt.scanBytes, hyt] at hru
    rw [List.length_append]
    exact hrt.trans hru

/-! ### The whole file -/

/-- DEC_IMAGE behind its header and its check (R142). -/
theorem exec_decImage {s v x : State} (hr : s.Ready) (hheader : readHeader s = .ok () v)
    (hg : v.geomFits v.planes true = true) (hscans : times decodeScan v.height.toNat v.firstScan = .ok () x) :
    exec .decImage s = .next (unpackImage.final x) := by
  refine (command_ready hr).trans ?_
  have hloop : reading (fun s => s.height.toNat) (times decodeScan) v.firstScan = .ok () x := hscans
  rw [bind_ok hheader, bind_check (checkGeom_apply _ _ v), if_pos hg, bind_ok (update_apply _ v), bind_ok hloop,
    unpackImage_apply, unpackImage_final]
  rfl

/-- The scanlines of a written image, from the first on, in a state that differs from the one they were written from by
what the encoder writes (R142). -/
theorem decodeScans_of_scanOut {z v : State} (h : ScanOutOnly z v) (hy : v.ycnt.toNat = 0) (hw : 0 < z.width.toNat)
    (hm : ∀ y, y < z.height.toNat → NotMarked z y) (hn : Next v (imageBytes z 0 z.height.toNat)) :
    ∃ x, times decodeScan v.height.toNat v = .ok () x ∧ Reread (imageBytes z 0 z.height.toNat).length v x := by
  obtain ⟨hwidth, hheight, hmode, -⟩ := h.fileOut.geometry
  have hbytes : imageBytes v v.ycnt.toNat v.height.toNat = imageBytes z 0 z.height.toNat := by
    rw [imageBytes_congr h.scanBytes, hy, hheight]
  rw [← hbytes] at hn ⊢
  exact decodeScans_reread (hwidth ▸ hw) (by omega)
    (fun y hlt => (notMarked_congr hwidth hheight hmode h.readPln y).mpr (hm y (hheight ▸ hlt))) hn

/-- The file read back from its first byte, whatever geometry the host has written (R142, R144): every cell of the
planes reads as it did, and the cursor is where ENC_IMAGE left it. -/
theorem exec_decImage_of_wrote {z t : State} (hz : Wrote (fileBytes z) z t) (hr : t.Ready)
    (hg : z.geomFits z.planes true = true) (hm : ∀ y, y < z.height.toNat → NotMarked z y) (w h : Word) :
    ∃ x, exec .decImage { t with spos := z.spos, width := w, height := h } = .next (unpackImage.final x) ∧
      Reread (fileBytes z).length { t with spos := z.spos } x := by
  have honly : ScanOutOnly z t := hz.scanOut
  obtain ⟨hwidth, hheight, -⟩ := honly.fileOut.geometry
  obtain ⟨hw0, hh0, -⟩ := (State.geomFits_iff _ _ z).mp hg
  obtain ⟨hhead, himage⟩ := next_append
    (hz.next (List.append_ne_nil_of_left_ne_nil (headerText_ne_nil z.height z.width) _))
  have hheader := readHeader_headerText (s := { t with spos := z.spos, width := w, height := h }) hh0 hw0 hhead
  have hdims : ∀ n, (State.moveCursor n { t with spos := z.spos, width := w, height := h }).setDimensions
      z.height z.width = State.moveCursor n { t with spos := z.spos } := fun n => by rw [← hwidth, ← hheight]; rfl
  rw [hdims] at hheader
  generalize hv : State.moveCursor (headerText z.height z.width).length { t with spos := z.spos } = v at hheader himage
  have hzv : ScanOutOnly z v.firstScan := scanOutOnly_chains.trans _ _ _ honly (hv ▸ rfl)
  have hvg : v.firstScan.geomFits v.firstScan.planes true = z.geomFits z.planes true := by rw [hzv]; rfl
  obtain ⟨x, hx, hrx⟩ := decodeScans_of_scanOut hzv rfl (State.width_pos hg) hm himage
  have hrv : Reread (headerText z.height z.width).length { t with spos := z.spos } v.firstScan :=
    hv ▸ ⟨rfl, fun _ => rfl, rfl⟩
  refine ⟨x, exec_decImage hr hheader (hvg.trans hg) hx, ?_⟩
  rw [fileBytes, List.length_append]
  exact hrv.trans hrx

/-- No scanline of a quantized image begins with the marker of its width, but for the widths of R144 (R72 (d)). -/
theorem quantized_notMarked {s : State} (hw : 0 < s.width.toNat)
    (h : 32768 ≤ s.width.toNat → s.width.toNat ≤ 65535 → NoFalseMarker s) {y : Nat} (hy : y < s.height.toNat) :
    NotMarked s.quantized y := by
  obtain ⟨hwidth, hheight, hmode, -⟩ := s.quantized_only.fileOut.geometry
  have hlt : y * s.width.toNat < s.pixels := by
    rw [State.pixels, Nat.mul_comm s.width.toNat]
    exact Nat.mul_lt_mul_of_pos_right hy hw
  intro hflat
  rw [hwidth] at hflat
  simp only [hwidth]
  rw [planeQuad_of_quantized s.quantized_imageQuantized hwidth hheight hmode hlt]
  have hwidths := of_decide_eq_false hflat
  by_cases hmid : 32768 ≤ s.width.toNat ∧ s.width.toNat ≤ 65535
  · exact h hmid.1 hmid.2 y hy
  · exact imageQuad_not_marker s _ (by omega)

theorem imageQuantized_congr {s t u : State} (h : ImageQuantized s t) (hp : ∀ a, u.readPln a = t.readPln a) :
    ImageQuantized s u := by
  intro p hlt
  simp only [hp]
  exact h p hlt

/-- Settles O41: the file is written wherever its longest form has room; read back, it is stored over the planes it was
written from, and then unpacked. -/
theorem imageRoundTrip : Obligations.ImageRoundTrip := by
  unfold Obligations.ImageRoundTrip
  intro s hr hgeom
  have hg := (State.geomFits_iff _ _ s).mpr hgeom
  obtain ⟨hw0, hh0, -⟩ := hgeom
  rw [← headerText_eq_headerBytes hh0 hw0]
  refine ⟨exec_encImage_room hr hg, fun hmark t ht he => ?_⟩
  have honly := s.quantized_only
  have hz := exec_encImage_wrote hr hg ht he
  have hzt := hz.scanOut
  obtain ⟨hwidth, hheight, -⟩ := honly.fileOut.geometry
  have hspos : s.quantized.spos = s.spos := by rw [honly]
  have hzg : s.quantized.geomFits s.quantized.planes true = s.geomFits s.planes true := by rw [honly]; rfl
  have hrt : t.Ready := ⟨by rw [hzt, honly]; exact hr.1, he⟩
  have hq := imageQuantized_congr s.quantized_imageQuantized hzt.readPln
  refine ⟨hq, fun w h => ?_⟩
  obtain ⟨x, hx, hrx⟩ := exec_decImage_of_wrote hz hrt (hzg.trans hg)
    (fun y hy => quantized_notMarked (State.width_pos hg) hmark (hheight ▸ hy)) w h
  have hux : ImageOnly x (unpackImage.final x) := by rw [unpackImage_final]; exact unpackImage_only _ 0 x
  rw [hspos] at hx
  refine ⟨_, hx, ?_, ?_, ?_, ?_, imageQuantized_congr hq fun a => ?_, unpackImage_unpacked x⟩ <;> rw [hux]
  · exact hrx.err.trans he
  · rw [hrx.only, hzt]; exact hwidth
  · rw [hrx.only, hzt]; exact hheight
  · rw [hrx.only, hz.spos]
  · exact hrx.pln a

end Sys2Proof.Machine
end

section
/-! The frame of NOP and the converter commands (O46). -/

namespace Sys2Proof.Machine

open Sys2Proof.Spec

/-- A command whose pseudocode is one write does that write, or nothing in the fault state (R150, R168). -/
theorem command_update_answers {w : Word} {f : State → State} {s t : State}
    (h : command w (update f) s = .next t) : t = s ∨ t = f s := by
  rcases command_answers h with ⟨-, ht⟩ | ⟨-, ht⟩ | ⟨-, g, u, hu, -⟩
  · exact .inl ht
  · injection ht with _ ht
    exact .inr ht.symm
  · nomatch hu

/-- Settles O46: each of the five commands is at most one write, NOP the empty one. -/
theorem registerCommandFrame : Obligations.RegisterCommandFrame := by
  unfold Obligations.RegisterCommandFrame
  intro s t
  refine ⟨fun h => ?_, fun h => ?_, fun h => ?_, fun h => ?_, fun h => ?_⟩
  · exact (command_update_answers (f := id) h).elim id id
  all_goals rcases command_update_answers h with rfl | rfl <;> rfl

end Sys2Proof.Machine
end

section
/-! The real values of binary32 patterns (R81) in the model's own fields, and their order. -/

namespace Sys2Proof.Machine

open Sys2Proof.Spec

/-! ### The real value in the model's fields -/

theorem signBit_eq_false_iff (w : Word) : signBit w = false ↔ w.toNat < 2 ^ 31 := by
  have h := signBit_eq w
  cases hs : signBit w <;> rw [hs] at h <;> simp only [Bool.toNat_true, Bool.toNat_false] at h <;> simp <;> omega

theorem signOf_eq (w : Word) : signOf w = (signBit w).toNat := (signBit_eq w).symm

theorem expOf_eq (w : Word) : expOf w = expField w := (expField_eq w).symm

theorem fracOf_eq (w : Word) : fracOf w = fracField w := (fracField_eq w).symm

/-- The magnitude is the integer significand times a power of two (R81). -/
theorem abs_real (w : Word) : |real w| = (significand w : ℚ) * 2 ^ (((max 1 (expField w) : ℕ) : ℤ) - 150) := by
  rw [real, expOf_eq, fracOf_eq, abs_mul, abs_neg_one_pow, one_mul, significand]
  by_cases h : expField w = 0
  · rw [if_pos h, if_pos h, h, abs_of_nonneg (by positivity)]
    norm_num
  · rw [if_neg h, if_neg h, Nat.max_eq_right (by omega), abs_of_nonneg (by positivity)]

theorem real_nonpos {w : Word} (h : signBit w = true) : real w ≤ 0 := by
  rw [real, signOf_eq, h, Bool.toNat_true, pow_one, neg_one_mul, neg_nonpos]
  split <;> positivity

/-! ### Non-negative patterns as numbers -/

/-- The real value of the non-negative pattern `n` in units of 2^-149, the least subnormal (R81). -/
def patternUnits (n : Nat) : Nat :=
  if n / 2 ^ 23 = 0 then n % 2 ^ 23 else (2 ^ 23 + n % 2 ^ 23) * 2 ^ (n / 2 ^ 23 - 1)

/-- The real value of the non-negative pattern `n` (R81). -/
def patternReal (n : Nat) : ℚ := patternUnits n * 2 ^ (-149 : ℤ)

/-- R83: "ordering of non-negative binary32 values equals ordering of their patterns". -/
theorem patternUnits_strictMono : StrictMono patternUnits := by
  refine strictMono_nat_of_lt_succ fun n => ?_
  have hdm := Nat.div_add_mod n (2 ^ 23)
  have hlt := Nat.mod_lt n (Nat.two_pow_pos 23)
  generalize hx : n / 2 ^ 23 = x at hdm
  generalize hf : n % 2 ^ 23 = f at hdm hlt
  by_cases hc : f + 1 < 2 ^ 23
  · have hx' : (n + 1) / 2 ^ 23 = x := by omega
    have hf' : (n + 1) % 2 ^ 23 = f + 1 := by omega
    rw [patternUnits, patternUnits, hx, hf, hx', hf']
    split
    · omega
    · exact Nat.mul_lt_mul_of_pos_right (by omega) (Nat.two_pow_pos _)
  · have hx' : (n + 1) / 2 ^ 23 = x + 1 := by omega
    have hf' : (n + 1) % 2 ^ 23 = 0 := by omega
    rw [patternUnits, patternUnits, hx, hf, hx', hf', if_neg (Nat.succ_ne_zero x), Nat.add_sub_cancel]
    split
    next h => rw [h]; omega
    next h =>
      have hp : 2 ^ x = 2 * 2 ^ (x - 1) := by rw [← pow_succ', Nat.sub_add_cancel (by omega)]
      have := Nat.two_pow_pos (x - 1)
      rw [hp, add_zero, ← mul_assoc]
      exact Nat.mul_lt_mul_of_pos_right (by omega) this

theorem patternReal_strictMono : StrictMono patternReal := fun m n h =>
  mul_lt_mul_of_pos_right (Nat.cast_lt.mpr (patternUnits_strictMono h)) (by positivity)

theorem patternReal_subnormal {f : Nat} (h : f < 2 ^ 23) : patternReal f = f * 2 ^ (-149 : ℤ) := by
  rw [patternReal, patternUnits, if_pos (by omega), Nat.mod_eq_of_lt h]

theorem patternReal_normal {x f : Nat} (hx : 1 ≤ x) (h : f < 2 ^ 23) :
    patternReal (x * 2 ^ 23 + f) = ((2 ^ 23 + f : Nat) : ℚ) * 2 ^ ((x : ℤ) - 150) := by
  have hdiv : (x * 2 ^ 23 + f) / 2 ^ 23 = x := by omega
  have hmod : (x * 2 ^ 23 + f) % 2 ^ 23 = f := by omega
  obtain ⟨y, rfl⟩ : ∃ y, x = y + 1 := ⟨x - 1, by omega⟩
  rw [patternReal, patternUnits, hdiv, hmod, if_neg (by omega), Nat.add_sub_cancel, Nat.cast_mul, mul_assoc]
  congr 1
  rw [Nat.cast_pow, ← zpow_natCast, Nat.cast_ofNat, ← zpow_add₀ two_ne_zero]
  congr 1
  omega

theorem patternReal_powerOfTwo {x : Nat} (hx : 1 ≤ x) : patternReal (x * 2 ^ 23) = 2 ^ ((x : ℤ) - 127) := by
  have h := patternReal_normal hx (Nat.two_pow_pos 23)
  rw [add_zero] at h
  rw [h, show ((2 ^ 23 + 0 : Nat) : ℚ) = 2 ^ (23 : ℤ) by norm_num, ← zpow_add₀ two_ne_zero]
  congr 1
  omega

theorem real_eq_patternReal {w : Word} (h : signBit w = false) : real w = patternReal w.toNat := by
  have hlt := (signBit_eq_false_iff w).mp h
  have hx : expOf w = w.toNat / 2 ^ 23 := Nat.mod_eq_of_lt (by omega)
  rw [real, signOf_eq, h, Bool.toNat_false, pow_zero, one_mul, hx]
  by_cases h0 : w.toNat / 2 ^ 23 = 0
  · rw [if_pos h0, patternReal, patternUnits, if_pos h0, fracOf]
  · have hf : fracOf w < 2 ^ 23 := Nat.mod_lt _ (Nat.two_pow_pos 23)
    have hw : w.toNat / 2 ^ 23 * 2 ^ 23 + fracOf w = w.toNat := Nat.div_add_mod' ..
    rw [if_neg h0, ← patternReal_normal (by omega) hf, hw]

theorem patternReal_zero : patternReal 0 = 0 := by
  rw [patternReal_subnormal (by norm_num), Nat.cast_zero, zero_mul]

theorem patternReal_nonneg (n : Nat) : 0 ≤ patternReal n := patternReal_zero ▸ patternReal_strictMono.monotone n.zero_le

theorem real_nonneg {w : Word} (h : signBit w = false) : 0 ≤ real w :=
  real_eq_patternReal h ▸ patternReal_nonneg w.toNat

theorem signBit_of_real_neg {w : Word} (h : real w < 0) : signBit w = true :=
  Bool.of_not_eq_false fun hs => not_lt_of_ge (real_nonneg hs) h

/-! ### The largest value and its pattern (R83) -/

theorem patternReal_maxKey (w : Word) : patternReal (maxKey w) = max 0 (real w) := by
  cases h : signBit w with
  | true => rw [maxKey, if_pos h, patternReal_zero, max_eq_left (real_nonpos h)]
  | false =>
    rw [maxKey, if_neg (Bool.eq_false_iff.mp h), ← real_eq_patternReal h, max_eq_right (real_nonneg h)]

/-- The pattern the model finds is that of the largest value, 0 when no value is positive. -/
theorem patternReal_maxPattern (w0 w1 w2 : Word) : patternReal (maxPattern w0 w1 w2) = max 0 (maxReal w0 w1 w2) := by
  have hm := patternReal_strictMono.monotone
  rw [maxPattern, hm.map_max, hm.map_max, patternReal_maxKey, patternReal_maxKey, patternReal_maxKey, maxReal,
    sup_sup_distrib_left (0 : ℚ) (real w0), sup_sup_distrib_left (0 : ℚ) (real w1)]

theorem le_maxReal_iff {r : ℚ} (h : 0 < r) (w0 w1 w2 : Word) :
    r ≤ maxReal w0 w1 w2 ↔ r ≤ patternReal (maxPattern w0 w1 w2) := by
  rw [patternReal_maxPattern, le_max_iff, or_iff_right (not_le_of_gt h)]

/-- The last pattern below 10^-32 (R83). -/
theorem patternReal_lt_threshold : patternReal (threshold - 1) < 1 / 10 ^ 32 := by
  rw [show threshold - 1 = 20 * 2 ^ 23 + 0x4FB11E by rfl, patternReal_normal (by norm_num) (by norm_num)]
  norm_num

/-- The first pattern that is not below 10^-32 (R83). -/
theorem le_patternReal_threshold : 1 / 10 ^ 32 ≤ patternReal threshold := by
  rw [show threshold = 20 * 2 ^ 23 + 0x4FB11F by rfl, patternReal_normal (by norm_num) (by norm_num)]
  norm_num

/-- R83's zero test on the pattern is the one on the real value. -/
theorem threshold_le_iff (w0 w1 w2 : Word) : threshold ≤ maxPattern w0 w1 w2 ↔ 1 / 10 ^ 32 ≤ maxReal w0 w1 w2 := by
  rw [le_maxReal_iff (by positivity)]
  constructor
  · exact fun h => le_patternReal_threshold.trans (patternReal_strictMono.monotone h)
  · exact fun h => Nat.le_of_pred_lt (patternReal_strictMono.lt_iff_lt.mp (patternReal_lt_threshold.trans_le h))

/-- The exponent field of the largest value's pattern is R84's `e` but for its bias. -/
theorem maxPattern_exponent {w0 w1 w2 : Word} {e : ℤ} (ht : 1 / 10 ^ 32 ≤ maxReal w0 w1 w2)
    (hl : 2 ^ (e - 1) ≤ maxReal w0 w1 w2) (hu : maxReal w0 w1 w2 < 2 ^ e) :
    ((maxPattern w0 w1 w2 >>> 23 : ℕ) : ℤ) = e + 126 := by
  have hk := (threshold_le_iff w0 w1 w2).mpr ht
  have hreal : maxReal w0 w1 w2 = patternReal (maxPattern w0 w1 w2) := by
    rw [patternReal_maxPattern, max_eq_right (le_trans (by positivity) ht)]
  rw [hreal] at hl hu
  rw [threshold] at hk
  rw [Nat.shiftRight_eq_div_pow]
  generalize maxPattern w0 w1 w2 = k at hk hl hu
  have hbelow : (2 : ℚ) ^ (((k / 2 ^ 23 : ℕ) : ℤ) - 127) ≤ patternReal k := by
    rw [← patternReal_powerOfTwo (by omega)]
    exact patternReal_strictMono.monotone (by omega)
  have habove : patternReal k < (2 : ℚ) ^ (((k / 2 ^ 23 + 1 : ℕ) : ℤ) - 127) := by
    rw [← patternReal_powerOfTwo (by omega)]
    exact patternReal_strictMono (by omega)
  have h1 := (zpow_lt_zpow_iff_right₀ one_lt_two).mp (hbelow.trans_lt hu)
  have h2 := (zpow_lt_zpow_iff_right₀ one_lt_two).mp (hl.trans_lt habove)
  omega

end Sys2Proof.Machine
end

section
/-! The channels of `FloatToRgbe` in real values (R83 to R85; O16). -/

namespace Sys2Proof.Machine

open Sys2Proof.Spec

/-! ### The mantissa of a channel (R85) -/

theorem floor_natCast_mul_two_zpow_neg (n k : Nat) : ⌊(n : ℚ) * 2 ^ (-(k : ℤ))⌋ = ((n >>> k : ℕ) : ℤ) := by
  have h := Rat.floor_natCast_div_natCast n (2 ^ k)
  rw [Nat.shiftRight_eq_div_pow, Int.natCast_div, ← h, zpow_neg, zpow_natCast, ← div_eq_mul_inv]
  push_cast
  rfl

/-- The model's shifts are `trunc(|c| * 2^(8-e))` with `e = x_max - 126` (R84, R85). -/
theorem scaledMagnitude_eq_floor {xmax : Nat} {e : ℤ} (h : (xmax : ℤ) = e + 126) (w : Word) :
    (scaledMagnitude xmax w : ℤ) = ⌊|real w| * 2 ^ (8 - e)⌋ := by
  rw [abs_real, mul_assoc, ← zpow_add₀ two_ne_zero, scaledMagnitude]
  generalize max 1 (expField w) = x
  by_cases hx : xmax + 16 ≤ x
  · have he : (x : ℤ) - 150 + (8 - e) = ((x - (xmax + 16) : ℕ) : ℤ) := by omega
    rw [if_pos hx, he, zpow_natCast, Nat.shiftLeft_eq]
    exact_mod_cast (Int.floor_natCast _).symm
  · have he : (x : ℤ) - 150 + (8 - e) = -((xmax + 16 - x : ℕ) : ℤ) := by omega
    rw [if_neg hx, he, floor_natCast_mul_two_zpow_neg]

/-- `m` is the mantissa byte of a channel of real value `r` where `2^(e-1) <= max < 2^e` (R85). -/
def Truncates (neg : NegMode) (e : ℤ) (r : ℚ) (m : Byte) : Prop :=
  (0 ≤ r → (m.toNat : ℚ) ≤ r * 2 ^ (8 - e) ∧ r * 2 ^ (8 - e) < m.toNat + 1) ∧
  (r < 0 → neg = .clamp0 → m = 0#8) ∧
  (r < 0 → neg = .wrap8 → (m.toNat : ℤ) = (-⌊|r| * 2 ^ (8 - e)⌋) % 256)

theorem toNat_neg_ofNat_byte (n : Nat) : ((-(BitVec.ofNat 8 n)).toNat : ℤ) = (-(n : ℤ)) % 256 := by
  rw [BitVec.toNat_neg, BitVec.toNat_ofNat]
  omega

/-- Both zeros have mantissa 0 (R85: "`-0.0` counts as 0 and gives 0"). -/
theorem mantissa_of_scaledMagnitude_zero {neg : NegMode} {free : Byte} {xmax : Nat} {w : Word}
    (hw : w ≠ 0xFF800000#32) (h : scaledMagnitude xmax w = 0) : mantissa neg free xmax w = 0#8 := by
  unfold mantissa
  rw [h]
  cases neg
  · exact ite_self _
  · rw [if_neg hw]
    exact ite_self _

theorem mantissa_clamp0 {free : Byte} {xmax : Nat} {w : Word} (h : signBit w = true) :
    mantissa .clamp0 free xmax w = 0#8 := if_pos h

theorem mantissa_wrap8 {free : Byte} {xmax : Nat} {w : Word} (h : signBit w = true) (hw : w ≠ 0xFF800000#32) :
    mantissa .wrap8 free xmax w = -(BitVec.ofNat 8 (scaledMagnitude xmax w)) := (if_pos h).trans (if_neg hw)

theorem isFinite_ne_negInf {w : Word} (h : isFinite w) : w ≠ 0xFF800000#32 := by
  rintro rfl
  exact absurd h (by unfold isFinite; decide)

/-- The mantissa of a channel that is not negative, `-0.0` included, is its scaled value truncated, which fits a byte
(R85). -/
theorem mantissa_toNat_of_nonneg {neg : NegMode} {free : Byte} {xmax : Nat} {e : ℤ} {w : Word} (hw : isFinite w)
    (hx : (xmax : ℤ) = e + 126) (h0 : 0 ≤ real w) (hlt : real w < 2 ^ e) :
    ((mantissa neg free xmax w).toNat : ℤ) = ⌊real w * 2 ^ (8 - e)⌋ := by
  have hfloor := scaledMagnitude_eq_floor hx w
  rw [abs_of_nonneg h0] at hfloor
  rw [← hfloor]
  cases hs : signBit w with
  | false =>
    have hscaled : real w * 2 ^ (8 - e) < 256 := by
      calc real w * 2 ^ (8 - e) < 2 ^ e * 2 ^ (8 - e) := mul_lt_mul_of_pos_right hlt (by positivity)
        _ = 256 := by rw [← zpow_add₀ two_ne_zero, add_sub_cancel]; norm_num
    have hbyte : ⌊real w * 2 ^ (8 - e)⌋ < 256 := Int.floor_lt.mpr hscaled
    rw [mantissa_nonneg hs, BitVec.toNat_ofNat, Nat.mod_eq_of_lt (by omega)]
  | true =>
    have hzero : scaledMagnitude xmax w = 0 := by
      rw [le_antisymm (real_nonpos hs) h0, zero_mul, Int.floor_zero] at hfloor
      exact_mod_cast hfloor
    rw [mantissa_of_scaledMagnitude_zero (isFinite_ne_negInf hw) hzero, hzero]; rfl

/-- R85 for one finite channel below `2^e`. -/
theorem mantissa_truncates {neg : NegMode} {free : Byte} {xmax : Nat} {e : ℤ} {w : Word} (hw : isFinite w)
    (hx : (xmax : ℤ) = e + 126) (hlt : real w < 2 ^ e) : Truncates neg e (real w) (mantissa neg free xmax w) := by
  refine ⟨fun h0 => ?_, ?_, ?_⟩
  · have hm := mantissa_toNat_of_nonneg (neg := neg) (free := free) hw hx h0 hlt
    obtain ⟨hle, hgt⟩ := Int.floor_eq_iff.mp hm.symm
    exact ⟨mod_cast hle, mod_cast hgt⟩
  · rintro hneg rfl
    exact mantissa_clamp0 (signBit_of_real_neg hneg)
  · rintro hneg rfl
    rw [mantissa_wrap8 (signBit_of_real_neg hneg) (isFinite_ne_negInf hw), toNat_neg_ofNat_byte,
      scaledMagnitude_eq_floor hx]

/-! ### The quad -/

theorem quantize_of_pattern_lt {neg : NegMode} {w0 w1 w2 : Word} (h : maxPattern w0 w1 w2 < threshold) :
    quantize neg w0 w1 w2 = ⟨0#8, 0#8, 0#8, 0#8⟩ := if_pos h

theorem quantize_of_threshold_le {neg : NegMode} {w0 w1 w2 : Word} (h : threshold ≤ maxPattern w0 w1 w2) :
    quantize neg w0 w1 w2 =
      { r := mantissa neg (Config.negInfMantissa 0 w0 w1 w2) (maxPattern w0 w1 w2 >>> 23) w0
        g := mantissa neg (Config.negInfMantissa 1 w0 w1 w2) (maxPattern w0 w1 w2 >>> 23) w1
        b := mantissa neg (Config.negInfMantissa 2 w0 w1 w2) (maxPattern w0 w1 w2 >>> 23) w2
        e := BitVec.ofNat 8 (maxPattern w0 w1 w2 >>> 23 + 2) } := if_neg (not_lt_of_ge h)

/-- R84 and R85 for finite operands that `OVF_MODE` has already limited. -/
theorem quantize_truncates {neg : NegMode} {w0 w1 w2 : Word} {e : ℤ} (h0 : isFinite w0) (h1 : isFinite w1)
    (h2 : isFinite w2) (ht : 1 / 10 ^ 32 ≤ maxReal w0 w1 w2) (hl : 2 ^ (e - 1) ≤ maxReal w0 w1 w2)
    (hu : maxReal w0 w1 w2 < 2 ^ e) :
    ((quantize neg w0 w1 w2).e.toNat : ℤ) = (e + 128) % 256 ∧
    Truncates neg e (real w0) (quantize neg w0 w1 w2).r ∧ Truncates neg e (real w1) (quantize neg w0 w1 w2).g ∧
    Truncates neg e (real w2) (quantize neg w0 w1 w2).b := by
  have hx := maxPattern_exponent ht hl hu
  obtain ⟨hu0, hu12⟩ := max_lt_iff.mp hu
  obtain ⟨hu1, hu2⟩ := max_lt_iff.mp hu12
  rw [quantize_of_threshold_le ((threshold_le_iff w0 w1 w2).mpr ht)]
  refine ⟨?_, mantissa_truncates h0 hx hu0, mantissa_truncates h1 hx hu1, mantissa_truncates h2 hx hu2⟩
  simp only [BitVec.toNat_ofNat]
  omega

/-! ### The operands (R82, R84) -/

theorem isFinite_iff (w : Word) : isFinite w ↔ expField w ≠ 255 := by
  have := expField_lt w
  rw [isFinite, expOf_eq]
  omega

theorem operand_of_finite (c : Config) {w : Word} (h : isFinite w) : operand c w = limitOperand c.ovfMode w := by
  rw [operand]
  cases c.nonFinite
  rw [canonical_finite w ((isFinite_iff w).mp h)]

/-- An operand below 2^127 is not limited (R84). -/
theorem limitOperand_of_lt (m : OvfMode) {w : Word} (h : real w < 2 ^ (127 : ℤ)) : limitOperand m w = w := by
  cases m with
  | wrap => rfl
  | sat255 =>
    refine if_neg ?_
    simp only [Bool.and_eq_true, Bool.not_eq_true', decide_eq_true_eq, not_and, not_lt]
    intro hs
    rw [real_eq_patternReal hs, show (127 : ℤ) = ((254 : ℕ) : ℤ) - 127 by rfl,
      ← patternReal_powerOfTwo (by norm_num), patternReal_strictMono.lt_iff_lt] at h
    omega

theorem floatToRgbe_eq_quantize_limitOperand (c : Config) {w0 w1 w2 : Word} (h0 : isFinite w0) (h1 : isFinite w1)
    (h2 : isFinite w2) : floatToRgbe c w0 w1 w2 =
      quantize c.negMode (limitOperand c.ovfMode w0) (limitOperand c.ovfMode w1) (limitOperand c.ovfMode w2) := by
  rw [floatToRgbe, operand_of_finite c h0, operand_of_finite c h1, operand_of_finite c h2]

theorem floatToRgbe_of_finite (c : Config) {w0 w1 w2 : Word} (h : c.ovfMode = .wrap ∨ maxReal w0 w1 w2 < 2 ^ (127 : ℤ))
    (h0 : isFinite w0) (h1 : isFinite w1) (h2 : isFinite w2) : floatToRgbe c w0 w1 w2 = quantize c.negMode w0 w1 w2 := by
  rw [floatToRgbe_eq_quantize_limitOperand c h0 h1 h2]
  rcases h with h | h
  · rw [h]; rfl
  · obtain ⟨hu0, hu12⟩ := max_lt_iff.mp h
    obtain ⟨hu1, hu2⟩ := max_lt_iff.mp hu12
    rw [limitOperand_of_lt _ hu0, limitOperand_of_lt _ hu1, limitOperand_of_lt _ hu2]

/-- Settles O16: no operand is limited, and each channel is R85's. -/
theorem packTruncatesScaledChannels : Obligations.PackTruncatesScaledChannels := by
  unfold Obligations.PackTruncatesScaledChannels
  intro c w0 w1 w2 e hovf h0 h1 h2 ht hl hu
  rw [floatToRgbe_of_finite c hovf h0 h1 h2]
  obtain ⟨he, hr, hg, hb⟩ := quantize_truncates (neg := c.negMode) h0 h1 h2 ht hl hu
  refine ⟨he, ?_⟩
  simp only [List.forall_mem_cons, List.not_mem_nil, false_imp_iff, implies_true, and_true]
  exact ⟨hr, hg, hb⟩

end Sys2Proof.Machine
end

section
/-! The zero quad (O17), `OVF_MODE`'s limit, and a maximum of 2^127 or more (O18). -/

namespace Sys2Proof.Machine

open Sys2Proof.Spec

/-! ### The zero quad (R83) -/

/-- A maximum at the threshold or above leaves a mantissa of at least 128, so only a smaller one gives the zero quad. -/
theorem quantize_eq_zero_iff (neg : NegMode) (w0 w1 w2 : Word) :
    quantize neg w0 w1 w2 = ⟨0#8, 0#8, 0#8, 0#8⟩ ↔ maxReal w0 w1 w2 < 1 / 10 ^ 32 := by
  rw [← not_iff_not, not_lt, ← threshold_le_iff]
  refine ⟨fun h => Nat.le_of_not_lt fun hk => h (quantize_of_pattern_lt hk), fun hk h => ?_⟩
  have hmax : maxPattern w0 w1 w2 = maxKey w0 ∨ maxPattern w0 w1 w2 = maxKey w1 ∨ maxPattern w0 w1 w2 = maxKey w2 := by
    unfold maxPattern; omega
  rw [quantize_of_threshold_le hk, Quad.mk.injEq] at h
  obtain ⟨hr, hg, hb, -⟩ := h
  rcases hmax with hm | hm | hm <;> rw [hm] at hk hr hg hb
  · exact absurd (le_mantissa_of_maxKey hk) (by rw [hr]; decide)
  · exact absurd (le_mantissa_of_maxKey hk) (by rw [hg]; decide)
  · exact absurd (le_mantissa_of_maxKey hk) (by rw [hb]; decide)

/-! ### The limit of `sat255` (R84) -/

/-- The largest value below 2^127 (R84). -/
theorem real_limit : real 0x7EFFFFFF#32 = (2 ^ 24 - 1) * 2 ^ (103 : ℤ) := by
  rw [real_eq_patternReal (by decide), show (0x7EFFFFFF#32 : Word).toNat = 253 * 2 ^ 23 + (2 ^ 23 - 1) by rfl,
    patternReal_normal (by norm_num) (by norm_num)]
  norm_num

/-- R84: `sat255` limits the real value of an operand. -/
theorem real_limitOperand_sat255 (w : Word) : real (limitOperand .sat255 w) = min (real w) (real 0x7EFFFFFF#32) := by
  have hL : signBit 0x7EFFFFFF#32 = false := by decide
  cases hs : signBit w with
  | true =>
    rw [min_eq_left ((real_nonpos hs).trans (real_nonneg hL)), limitOperand, hs]
    rfl
  | false =>
    by_cases h : 0x7EFFFFFF < w.toNat
    · have hlt : real 0x7EFFFFFF#32 < real w := by
        rw [real_eq_patternReal hL, real_eq_patternReal hs]
        exact patternReal_strictMono h
      rw [min_eq_right hlt.le, limitOperand, hs, decide_eq_true h]
      rfl
    · have hle : real w ≤ real 0x7EFFFFFF#32 := by
        rw [real_eq_patternReal hL, real_eq_patternReal hs]
        exact patternReal_strictMono.monotone (Nat.le_of_not_lt h)
      rw [min_eq_left hle, limitOperand, hs, decide_eq_false h]
      rfl

theorem maxReal_limitOperand_sat255 (w0 w1 w2 : Word) :
    maxReal (limitOperand .sat255 w0) (limitOperand .sat255 w1) (limitOperand .sat255 w2) =
      min (maxReal w0 w1 w2) (real 0x7EFFFFFF#32) := by
  simp only [maxReal, real_limitOperand_sat255, min_max_distrib_right]

/-- No mode's limit takes the maximum across the threshold of R83. -/
theorem maxReal_limitOperand_lt_iff (m : OvfMode) (w0 w1 w2 : Word) :
    maxReal (limitOperand m w0) (limitOperand m w1) (limitOperand m w2) < 1 / 10 ^ 32 ↔
      maxReal w0 w1 w2 < 1 / 10 ^ 32 := by
  cases m with
  | wrap => rfl
  | sat255 =>
    have hL : ¬ real 0x7EFFFFFF#32 < 1 / 10 ^ 32 := by rw [real_limit]; norm_num
    rw [maxReal_limitOperand_sat255, min_lt_iff, or_iff_left hL]

theorem isFinite_limitOperand (m : OvfMode) {w : Word} (h : isFinite w) : isFinite (limitOperand m w) := by
  cases m with
  | wrap => exact h
  | sat255 =>
    rw [limitOperand]
    split
    · unfold isFinite; decide
    · exact h

/-- Settles O17: the limit does not move the maximum across the threshold, and at the threshold a mantissa is not 0. -/
theorem belowThresholdPacksToZero : Obligations.BelowThresholdPacksToZero := by
  unfold Obligations.BelowThresholdPacksToZero
  refine ⟨fun c w0 w1 w2 h0 h1 h2 => ?_, ?_, ?_⟩
  · rw [floatToRgbe_eq_quantize_limitOperand c h0 h1 h2, quantize_eq_zero_iff, maxReal_limitOperand_lt_iff]
  · rw [real_eq_patternReal (by decide)]
    exact patternReal_lt_threshold
  · rw [real_eq_patternReal (by decide)]
    exact le_patternReal_threshold

/-! ### A maximum of 2^127 or more (R84) -/

theorem real_lt_of_expOf_lt {w : Word} {x : Nat} (h : expOf w < x) : real w < 2 ^ ((x : ℤ) - 127) := by
  cases hs : signBit w with
  | true => exact (real_nonpos hs).trans_lt (by positivity)
  | false =>
    have hw := (signBit_eq_false_iff w).mp hs
    rw [expOf] at h
    rw [real_eq_patternReal hs, ← patternReal_powerOfTwo (by omega)]
    exact patternReal_strictMono (by omega)

/-- The mantissas of limited operands (R84 with `e = 127`, R85) in terms of the operands; a negative one is as it was. -/
theorem Truncates.of_limited {neg : NegMode} {r l : ℚ} {m : Byte} (hl : 0 ≤ l) (h : Truncates neg 127 (min r l) m) :
    (0 ≤ r → (m.toNat : ℚ) ≤ min r l * 2 ^ (-119 : ℤ) ∧ min r l * 2 ^ (-119 : ℤ) < m.toNat + 1) ∧
    (r < 0 → neg = .clamp0 → m = 0#8) ∧
    (r < 0 → -(2 ^ (127 : ℤ)) < r → neg = .wrap8 → (m.toNat : ℤ) = (-⌊|r| * 2 ^ (-119 : ℤ)⌋) % 256) := by
  obtain ⟨hpos, hclamp, hwrap⟩ := h
  refine ⟨fun h => hpos (le_min h hl), fun h => hclamp (min_lt_of_left_lt h), fun h _ hneg => ?_⟩
  have hm := hwrap (min_lt_of_left_lt h) hneg
  rwa [min_eq_left (h.le.trans hl)] at hm

/-- Settles O18: with `wrap` this is `e = 128`, with `sat255` the limited operands have `e = 127`. -/
theorem exponentOverflowFollowsOvfMode : Obligations.ExponentOverflowFollowsOvfMode := by
  unfold Obligations.ExponentOverflowFollowsOvfMode
  intro c w0 w1 w2 h0 h1 h2 hbig
  have hlt : ∀ {w}, isFinite w → real w < 2 ^ (128 : ℤ) := fun h => real_lt_of_expOf_lt (x := 255) (Nat.lt_succ_of_le h)
  rw [floatToRgbe_eq_quantize_limitOperand c h0 h1 h2]
  refine ⟨fun hm => ?_, fun hm => ?_⟩ <;> rw [hm]
  · obtain ⟨he, -⟩ := quantize_truncates (neg := c.negMode) h0 h1 h2 (le_trans (by norm_num) hbig) hbig
      (max_lt (hlt h0) (max_lt (hlt h1) (hlt h2)))
    have he : (quantize c.negMode w0 w1 w2).e = 0#8 := BitVec.eq_of_toNat_eq (by exact_mod_cast he)
    exact ⟨he, if_pos he, if_pos he, if_pos he⟩
  · have hlim : ∀ {w}, isFinite w → isFinite (limitOperand .sat255 w) := isFinite_limitOperand _
    have hmax := maxReal_limitOperand_sat255 w0 w1 w2
    have hL : real 0x7EFFFFFF#32 < 2 ^ (127 : ℤ) := by rw [real_limit]; norm_num
    rw [min_eq_right (hL.le.trans hbig), real_limit] at hmax
    obtain ⟨he, hr, hg, hb⟩ := quantize_truncates (neg := c.negMode) (e := 127) (hlim h0) (hlim h1) (hlim h2)
      (by rw [hmax]; norm_num) (by rw [hmax]; norm_num) (by rw [hmax]; norm_num)
    rw [real_limitOperand_sat255] at hr hg hb
    have hL0 : 0 ≤ real 0x7EFFFFFF#32 := real_nonneg (by decide)
    refine ⟨BitVec.eq_of_toNat_eq (by exact_mod_cast he), ?_⟩
    simp only [List.forall_mem_cons, List.not_mem_nil, false_imp_iff, implies_true, and_true]
    exact ⟨hr.of_limited hL0, hg.of_limited hL0, hb.of_limited hL0⟩

end Sys2Proof.Machine
end

section
/-! Operands that are not finite (O19), and `FloatToRgbe` in R86's bit-level form (O13). -/

namespace Sys2Proof.Machine

open Sys2Proof.Spec

/-! ### Canonicalised operands (R82) -/

theorem isNaN_iff (w : Word) : isNaN w = true ↔ isNan w := by
  rw [isNaN, isNan, Bool.and_eq_true, beq_iff_eq, bne_iff_ne, expOf_eq, fracOf_eq]

theorem canonical_of_canon {w v : Word} (h : Canon w v) : canonical .canon w = v := by
  obtain ⟨hnan, hinf, hother⟩ := h
  rw [canonical]
  by_cases hn : isNaN w = true
  · rw [if_pos hn, hnan ((isNaN_iff w).mp hn)]
  · rw [if_neg hn]
    by_cases hi : w = 0x7F800000#32
    · rw [if_pos hi, hinf hi]
    · rw [if_neg hi, hother (fun h => hn ((isNaN_iff w).mpr h)) hi]

theorem operand_of_canon (c : Config) {w v : Word} (h : Canon w v) : operand c w = operand c v := by
  rw [operand, operand, ← canonical_of_canon h]
  cases c.nonFinite
  rw [canonical_idem]

theorem operand_negInf (c : Config) : operand c 0xFF800000#32 = 0xFF800000#32 := by
  rw [operand]
  cases c.nonFinite
  cases c.ovfMode <;> decide

/-- With `clamp0` a negative channel's mantissa is 0, below the threshold and above it (R83, R85). -/
theorem quantize_clamp0 (w0 w1 w2 : Word) :
    (signBit w0 = true → (quantize .clamp0 w0 w1 w2).r = 0#8) ∧
    (signBit w1 = true → (quantize .clamp0 w0 w1 w2).g = 0#8) ∧
    (signBit w2 = true → (quantize .clamp0 w0 w1 w2).b = 0#8) := by
  by_cases hk : maxPattern w0 w1 w2 < threshold
  · rw [quantize_of_pattern_lt hk]
    exact ⟨fun _ => rfl, fun _ => rfl, fun _ => rfl⟩
  · rw [quantize_of_threshold_le (Nat.le_of_not_lt hk)]
    dsimp only
    exact ⟨mantissa_clamp0, mantissa_clamp0, mantissa_clamp0⟩

/-- Settles O19: `canon` is idempotent, and negative infinity keeps its sign. -/
theorem nonFiniteOperandsAreCanonicalised : Obligations.NonFiniteOperandsAreCanonicalised := by
  unfold Obligations.NonFiniteOperandsAreCanonicalised
  intro c w0 w1 w2 v0 v1 v2 h0 h1 h2
  refine ⟨?_, fun hneg => ?_⟩
  · rw [floatToRgbe, floatToRgbe, operand_of_canon c h0, operand_of_canon c h1, operand_of_canon c h2]
  · have hsign : ∀ {w}, w = 0xFF800000#32 → signBit (operand c w) = true := by
      rintro _ rfl
      rw [operand_negInf]
      decide
    rw [floatToRgbe, hneg]
    obtain ⟨hr, hg, hb⟩ := quantize_clamp0 (operand c w0) (operand c w1) (operand c w2)
    exact ⟨fun h => hr (hsign h), fun h => hg (hsign h), fun h => hb (hsign h)⟩

/-! ### The bit-level form (R86) -/

theorem maxKey_eq_toNat_keyR86 (w : Word) : maxKey w = (keyR86 w).toNat := by
  rw [maxKey, keyR86, signOf_eq]
  cases signBit w <;> rfl

/-- R86's `K`, which is -1 where the model's is 0. -/
theorem maxPattern_eq_toNat (w0 w1 w2 : Word) :
    maxPattern w0 w1 w2 = (max (keyR86 w0) (max (keyR86 w1) (keyR86 w2))).toNat := by
  rw [maxPattern, maxKey_eq_toNat_keyR86, maxKey_eq_toNat_keyR86, maxKey_eq_toNat_keyR86]
  omega

theorem expField_le_of_maxKey_le {w : Word} {k : Nat} (hs : signBit w = false) (h : maxKey w ≤ k) :
    expField w ≤ k / 2 ^ 23 := by
  rw [maxKey, if_neg (Bool.eq_false_iff.mp hs)] at h
  have := pattern_eq w hs
  omega

/-- R86's mantissa: a zero or subnormal channel, and one more than 7 binades below `max`, is shifted out. -/
theorem mantissa_eq_mantissaR86 {free : Byte} {xmax : Nat} {w : Word} (hx : 20 ≤ xmax)
    (h : signBit w = false → expField w ≤ xmax) : mantissa .clamp0 free xmax w = mantissaR86 xmax w := by
  rw [mantissaR86, signOf_eq, expOf_eq, fracOf_eq, show 0x800000 = 2 ^ 23 by rfl]
  cases hs : signBit w with
  | true => rw [mantissa_clamp0 hs, if_pos (.inl rfl)]
  | false =>
    have hle := h hs
    have hsig := significand_lt w
    rw [mantissa_nonneg hs, scaledMagnitude, if_neg (by omega)]
    have hout : ∀ {n}, 24 ≤ n → significand w >>> n = 0 := fun hn =>
      Nat.shiftRight_eq_zero _ _ (hsig.trans_le (Nat.pow_le_pow_right two_pos hn))
    by_cases hfar : expField w = 0 ∨ 7 < (xmax : ℤ) - expField w
    · rw [if_pos (.inr hfar), hout (by omega)]
    · obtain ⟨h0, h7⟩ := not_or.mp hfar
      rw [if_neg (by simp [h0, h7]), significand, if_neg h0, Nat.max_eq_right (by omega), Nat.shiftRight_eq_div_pow,
        show xmax + 16 - expField w = 16 + (xmax - expField w) by omega]

theorem quantize_word_eq_packR86 (w0 w1 w2 : Word) : (quantize .clamp0 w0 w1 w2).word = packR86 w0 w1 w2 := by
  have hk := maxPattern_eq_toNat w0 w1 w2
  have h0 : maxKey w0 ≤ maxPattern w0 w1 w2 := le_max_left _ _
  have h1 : maxKey w1 ≤ maxPattern w0 w1 w2 := (le_max_left _ _).trans (le_max_right _ _)
  have h2 : maxKey w2 ≤ maxPattern w0 w1 w2 := (le_max_right _ _).trans (le_max_right _ _)
  unfold packR86
  generalize max (keyR86 w0) (max (keyR86 w1) (keyR86 w2)) = k at hk
  by_cases ht : k < 0x0A4FB11F
  · rw [quantize_of_pattern_lt (by rw [hk, threshold]; omega)]
    simp only [ht, if_true]
    rfl
  · have hx : 20 ≤ k.toNat / 2 ^ 23 := by omega
    have he : BitVec.ofNat 8 (k.toNat / 2 ^ 23 + 2) = BitVec.ofNat 8 ((k.toNat / 2 ^ 23 + 2) % 256) :=
      BitVec.eq_of_toNat_eq (by simp)
    rw [quantize_of_threshold_le (by rw [hk, threshold]; omega)]
    rw [hk] at h0 h1 h2 ⊢
    simp only [ht, if_false, Nat.shiftRight_eq_div_pow, Quad.word,
      mantissa_eq_mantissaR86 hx fun hs => expField_le_of_maxKey_le hs h0,
      mantissa_eq_mantissaR86 hx fun hs => expField_le_of_maxKey_le hs h1,
      mantissa_eq_mantissaR86 hx fun hs => expField_le_of_maxKey_le hs h2, he]

/-- Settles O13: in the default modes the operands are the canonicalised ones, and the model's shifts are R86's. -/
theorem packIsBitLevelForm : Obligations.PackIsBitLevelForm := by
  unfold Obligations.PackIsBitLevelForm
  rintro c w0 w1 w2 v0 v1 v2 ⟨hneg, hovf, hnon⟩ h0 h1 h2
  rw [floatToRgbe, operand, operand, operand, hneg, hovf, hnon, canonical_of_canon h0, canonical_of_canon h1,
    canonical_of_canon h2]
  exact quantize_word_eq_packR86 v0 v1 v2

end Sys2Proof.Machine
end

section
/-! The channels of `RgbeToFloat` in real values (O15), and the round trips of R94 (O20, O21). -/

namespace Sys2Proof.Machine

open Sys2Proof.Spec

/-! ### A decoded channel (R89, R90) -/

theorem decodeChannel_zero (e : Byte) : decodeChannel 0#8 e = 0#32 := if_pos rfl

/-- R90's normal form: the top bit of `M` becomes the hidden bit. -/
theorem decodeChannel_normal {m e : Byte} (hm : m ≠ 0#8) (h : 10 ≤ topBit m + e.toNat) :
    ∃ f, f < 2 ^ 23 ∧ 2 ^ 23 + f = m.toNat * 2 ^ (23 - topBit m) ∧
      (decodeChannel m e).toNat = (topBit m + e.toNat - 9) * 2 ^ 23 + f := by
  obtain ⟨hlow, hhigh⟩ := topBit_spec m hm
  have h7 := topBit_le m
  have he := e.isLt
  have hlow' : 2 ^ 23 ≤ m.toNat * 2 ^ (23 - topBit m) := by
    calc 2 ^ 23 = 2 ^ topBit m * 2 ^ (23 - topBit m) := by rw [← pow_add]; congr 1; omega
      _ ≤ _ := Nat.mul_le_mul_right _ hlow
  have hhigh' : m.toNat * 2 ^ (23 - topBit m) < 2 ^ 24 := by
    calc m.toNat * 2 ^ (23 - topBit m) < 2 ^ (topBit m + 1) * 2 ^ (23 - topBit m) :=
          Nat.mul_lt_mul_of_pos_right hhigh (Nat.two_pow_pos _)
      _ = 2 ^ 24 := by rw [← pow_add]; congr 1; omega
  refine ⟨m.toNat * 2 ^ (23 - topBit m) - 2 ^ 23, by omega, by omega, ?_⟩
  rw [decodeChannel, if_neg hm, if_pos h, BitVec.toNat_ofNat, Nat.shiftLeft_eq, Nat.shiftLeft_eq]
  omega

/-- R90's subnormal form. -/
theorem decodeChannel_subnormal {m e : Byte} (hm : m ≠ 0#8) (h : topBit m + e.toNat < 10) :
    (decodeChannel m e).toNat = m.toNat * 2 ^ (e.toNat + 13) ∧ m.toNat * 2 ^ (e.toNat + 13) < 2 ^ 23 := by
  have hlt : m.toNat * 2 ^ (e.toNat + 13) < 2 ^ 23 := by
    calc m.toNat * 2 ^ (e.toNat + 13) < 2 ^ (topBit m + 1) * 2 ^ (e.toNat + 13) :=
          Nat.mul_lt_mul_of_pos_right (topBit_spec m hm).2 (Nat.two_pow_pos _)
      _ = 2 ^ (topBit m + 1 + (e.toNat + 13)) := (pow_add ..).symm
      _ ≤ 2 ^ 23 := Nat.pow_le_pow_right two_pos (by omega)
  refine ⟨?_, hlt⟩
  rw [decodeChannel, if_neg hm, if_neg (Nat.not_le_of_lt h), BitVec.toNat_ofNat, Nat.shiftLeft_eq]
  exact Nat.mod_eq_of_lt (hlt.trans (by norm_num))

/-- R89, R90: no decoded channel reaches 2^127, and its value is `M * 2^(E-136)` exactly. -/
theorem decodeChannel_exact (m e : Byte) :
    (decodeChannel m e).toNat < 254 * 2 ^ 23 ∧
    patternReal (decodeChannel m e).toNat = (m.toNat : ℚ) * 2 ^ ((e.toNat : ℤ) - 136) := by
  have he := e.isLt
  by_cases hm : m = 0#8
  · subst hm
    rw [decodeChannel_zero]
    refine ⟨by decide, patternReal_zero.trans ?_⟩
    rw [BitVec.toNat_zero, Nat.cast_zero, zero_mul]
  · by_cases h : 10 ≤ topBit m + e.toNat
    · obtain ⟨f, hf, hsig, hword⟩ := decodeChannel_normal hm h
      have h7 := topBit_le m
      rw [hword, patternReal_normal (by omega) hf, hsig]
      refine ⟨by omega, ?_⟩
      push_cast
      rw [mul_assoc, ← zpow_natCast, ← zpow_add₀ two_ne_zero]
      congr 2
      omega
    · obtain ⟨hword, hlt⟩ := decodeChannel_subnormal hm (Nat.lt_of_not_le h)
      rw [hword, patternReal_subnormal hlt]
      refine ⟨hlt.trans (by norm_num), ?_⟩
      push_cast
      rw [mul_assoc, ← zpow_natCast, ← zpow_add₀ two_ne_zero]
      congr 2
      omega

theorem channelToFloat_zero (m : Byte) : channelToFloat m 0#8 = 0#32 := if_pos rfl

theorem channelToFloat_toNat_lt {m e : Byte} (he : e ≠ 0#8) : (channelToFloat m e).toNat < 254 * 2 ^ 23 := by
  rw [channelToFloat, if_neg he]
  exact (decodeChannel_exact m e).1

theorem isFinite_channelToFloat {m e : Byte} (he : e ≠ 0#8) : isFinite (channelToFloat m e) := by
  have := channelToFloat_toNat_lt (m := m) he
  rw [isFinite, expOf]
  omega

theorem real_channelToFloat {m e : Byte} (he : e ≠ 0#8) :
    real (channelToFloat m e) = (m.toNat : ℚ) * 2 ^ ((e.toNat : ℤ) - 136) := by
  have hlt := channelToFloat_toNat_lt (m := m) he
  rw [real_eq_patternReal ((signBit_eq_false_iff _).mpr (by omega)), channelToFloat, if_neg he]
  exact (decodeChannel_exact m e).2

/-- Settles O15: R90's two forms both denote `M * 2^(E-136)`. -/
theorem unpackedChannelIsExact : Obligations.UnpackedChannelIsExact := by
  unfold Obligations.UnpackedChannelIsExact
  refine fun m e => ⟨fun he => if_pos he, fun he => ⟨isFinite_channelToFloat he, ?_, real_channelToFloat he⟩⟩
  have := channelToFloat_toNat_lt (m := m) he
  rw [signOf]
  omega

/-! ### The round trips (R94) -/

/-- A truncated channel, scaled back, is at most the channel and less than one step below it (R94). -/
theorem Truncates.error_bound {neg : NegMode} {e : ℤ} {r : ℚ} {m : Byte} (h : Truncates neg e r m) (hr : 0 ≤ r) :
    (m.toNat : ℚ) * 2 ^ (e - 8) ≤ r ∧ r - (m.toNat : ℚ) * 2 ^ (e - 8) < 2 ^ (e - 8) := by
  obtain ⟨hle, hlt⟩ := h.1 hr
  have hinv : r * 2 ^ (8 - e) * 2 ^ (e - 8) = r := by
    rw [mul_assoc, ← zpow_add₀ two_ne_zero, show (8 - e) + (e - 8) = 0 by ring, zpow_zero, mul_one]
  have hp : (0 : ℚ) < 2 ^ (e - 8) := by positivity
  have h1 := mul_le_mul_of_nonneg_right hle hp.le
  have h2 := mul_lt_mul_of_pos_right hlt hp
  rw [hinv] at h1 h2
  constructor <;> linarith

/-- The mantissa byte of a whole number below 256 is that number. -/
theorem Truncates.eq_of_natCast {neg : NegMode} {e : ℤ} {k m : Byte}
    (h : Truncates neg e ((k.toNat : ℚ) * 2 ^ (e - 8)) m) : m = k := by
  obtain ⟨hle, hlt⟩ := h.1 (by positivity)
  rw [mul_assoc, ← zpow_add₀ two_ne_zero, show (e - 8) + (8 - e) = 0 by ring, zpow_zero, mul_one] at hle hlt
  have h1 : m.toNat ≤ k.toNat := by exact_mod_cast hle
  have h2 : k.toNat < m.toNat + 1 := by exact_mod_cast hlt
  exact BitVec.eq_of_toNat_eq (by omega)

/-- On R88's domain R84's exponent byte needs no reduction (22 to 255), so it is not 0. -/
theorem exponent_range {r : ℚ} {e : ℤ} (ht : 1 / 10 ^ 32 ≤ r) (hbig : r < 2 ^ (127 : ℤ)) (hl : 2 ^ (e - 1) ≤ r)
    (hu : r < 2 ^ e) : -107 < e ∧ e - 1 < 127 := by
  constructor
  · refine (zpow_lt_zpow_iff_right₀ (one_lt_two (α := ℚ))).mp (lt_of_le_of_lt ?_ (ht.trans_lt hu))
    norm_num
  · exact (zpow_lt_zpow_iff_right₀ one_lt_two).mp (hl.trans_lt hbig)

/-- Settles O20: below the threshold the quad is zero, and above it each channel is truncated and decoded exactly. -/
theorem packThenUnpackErrorBound : Obligations.PackThenUnpackErrorBound := by
  unfold Obligations.PackThenUnpackErrorBound
  intro c w0 w1 w2 hw
  simp only [List.forall_mem_cons, List.not_mem_nil, false_imp_iff, implies_true, and_true] at hw ⊢
  obtain ⟨⟨hx0, hr0⟩, ⟨hx1, hr1⟩, hx2, hr2⟩ := hw
  have hbig : maxReal w0 w1 w2 < 2 ^ (127 : ℤ) := by
    have hlt : ∀ {w}, expOf w ≤ 253 → real w < 2 ^ (127 : ℤ) := fun h =>
      real_lt_of_expOf_lt (x := 254) (Nat.lt_succ_of_le h)
    exact max_lt (hlt hx0) (max_lt (hlt hx1) (hlt hx2))
  have h0 : isFinite w0 := hx0.trans (by norm_num)
  have h1 : isFinite w1 := hx1.trans (by norm_num)
  have h2 : isFinite w2 := hx2.trans (by norm_num)
  rw [floatToRgbe_of_finite c (.inr hbig) h0 h1 h2]
  refine ⟨fun hz => ?_, fun e ht hl hu => ?_⟩
  · rw [(quantize_eq_zero_iff _ _ _ _).mpr hz]
    exact ⟨channelToFloat_zero _, channelToFloat_zero _, channelToFloat_zero _⟩
  · obtain ⟨he, hr, hg, hb⟩ := quantize_truncates (neg := c.negMode) h0 h1 h2 ht hl hu
    have hrange := exponent_range ht hbig hl hu
    generalize quantize c.negMode w0 w1 w2 = q at he hr hg hb
    have he0 : q.e ≠ 0#8 := by
      intro h
      rw [h] at he
      simp only [BitVec.toNat_ofNat] at he
      omega
    have hexp : (q.e.toNat : ℤ) - 136 = e - 8 := by omega
    rw [real_channelToFloat he0, real_channelToFloat he0, real_channelToFloat he0, hexp]
    exact ⟨hr.error_bound hr0, hg.error_bound hr1, hb.error_bound hr2⟩

theorem maxReal_channelToFloat {r g b e : Byte} (he : e ≠ 0#8) :
    maxReal (channelToFloat r e) (channelToFloat g e) (channelToFloat b e) =
      ((max r.toNat (max g.toNat b.toNat) : ℕ) : ℚ) * 2 ^ ((e.toNat : ℤ) - 136) := by
  have hp : (0 : ℚ) ≤ 2 ^ ((e.toNat : ℤ) - 136) := by positivity
  rw [maxReal, real_channelToFloat he, real_channelToFloat he, real_channelToFloat he, ← max_mul_of_nonneg _ _ hp,
    ← max_mul_of_nonneg _ _ hp]
  push_cast
  rfl

/-- On R94's domain the decoded maximum is not below 10^-32 and lies in the binade of `E`. -/
theorem scaled_max_bounds {x M : Nat} (h : (23 ≤ x ∧ 128 ≤ M) ∨ (x = 22 ∧ 208 ≤ M)) (hM : M < 256) :
    (1 / 10 ^ 32 : ℚ) ≤ M * 2 ^ ((x : ℤ) - 136) ∧ (2 : ℚ) ^ ((x : ℤ) - 128 - 1) ≤ M * 2 ^ ((x : ℤ) - 136) ∧
      (M * 2 ^ ((x : ℤ) - 136) : ℚ) < 2 ^ ((x : ℤ) - 128) := by
  have hp : (0 : ℚ) < 2 ^ ((x : ℤ) - 136) := by positivity
  have hlow : (128 : ℚ) ≤ M := by exact_mod_cast (by omega : 128 ≤ M)
  have hhigh : (M : ℚ) < 256 := by exact_mod_cast hM
  refine ⟨?_, ?_, ?_⟩
  · rcases h with ⟨hx, -⟩ | ⟨rfl, hM⟩
    · calc (1 / 10 ^ 32 : ℚ) ≤ 128 * 2 ^ (23 - 136 : ℤ) := by norm_num
        _ ≤ M * 2 ^ ((x : ℤ) - 136) :=
          mul_le_mul hlow (zpow_le_zpow_right₀ one_le_two (by omega)) (by positivity) (by positivity)
    · calc (1 / 10 ^ 32 : ℚ) ≤ 208 * 2 ^ (22 - 136 : ℤ) := by norm_num
        _ ≤ M * 2 ^ (((22 : ℕ) : ℤ) - 136) := mul_le_mul_of_nonneg_right (by exact_mod_cast hM) hp.le
  · calc (2 : ℚ) ^ ((x : ℤ) - 128 - 1) = 2 ^ (7 : ℤ) * 2 ^ ((x : ℤ) - 136) := by
          rw [← zpow_add₀ two_ne_zero]; congr 1; ring
      _ ≤ _ := mul_le_mul_of_nonneg_right (hlow.trans' (by norm_num)) hp.le
  · calc (M * 2 ^ ((x : ℤ) - 136) : ℚ) < 2 ^ (8 : ℤ) * 2 ^ ((x : ℤ) - 136) :=
          mul_lt_mul_of_pos_right (hhigh.trans_le (by norm_num)) hp
      _ = _ := by rw [← zpow_add₀ two_ne_zero]; congr 1; ring

theorem Quad.eq_mk {q : Quad} {r g b e : Byte} (hr : q.r = r) (hg : q.g = g) (hb : q.b = b) (he : q.e = e) :
    q = ⟨r, g, b, e⟩ := hr ▸ hg ▸ hb ▸ he ▸ rfl

/-- Settles O21: the decoded maximum lies in the binade of `E`, so each mantissa is truncated from itself. -/
theorem unpackThenPackIsIdentity : Obligations.UnpackThenPackIsIdentity := by
  unfold Obligations.UnpackThenPackIsIdentity
  rintro c ⟨r, g, b, x⟩ h
  dsimp only at h ⊢
  have hx := x.isLt
  have hx0 : x ≠ 0#8 := by
    rintro rfl
    simp only [BitVec.toNat_ofNat] at h
    omega
  obtain ⟨ht, hl, hu⟩ := scaled_max_bounds (x := x.toNat) (M := max r.toNat (max g.toNat b.toNat)) (by omega)
    (max_lt r.isLt (max_lt g.isLt b.isLt))
  rw [← maxReal_channelToFloat hx0] at ht hl hu
  have hbig : maxReal (channelToFloat r x) (channelToFloat g x) (channelToFloat b x) < 2 ^ (127 : ℤ) :=
    hu.trans_le (zpow_le_zpow_right₀ one_le_two (by omega))
  have hfin : ∀ m, isFinite (channelToFloat m x) := fun m => isFinite_channelToFloat hx0
  rw [floatToRgbe_of_finite c (.inr hbig) (hfin r) (hfin g) (hfin b)]
  obtain ⟨he, hqr, hqg, hqb⟩ := quantize_truncates (neg := c.negMode) (hfin r) (hfin g) (hfin b) ht hl hu
  have hstep : (x.toNat : ℤ) - 136 = (x.toNat : ℤ) - 128 - 8 := by ring
  rw [real_channelToFloat hx0, hstep] at hqr hqg hqb
  have hqe : (quantize c.negMode (channelToFloat r x) (channelToFloat g x) (channelToFloat b x)).e = x :=
    BitVec.eq_of_toNat_eq (by omega)
  exact Quad.eq_mk hqr.eq_of_natCast hqg.eq_of_natCast hqb.eq_of_natCast hqe

end Sys2Proof.Machine
end

section
/-! The Header Codec as commands: HDR_WR is one sequence of `PutByte`s (O26), HDR_RD reads every header that R103 to R105
accept (O27), and the header that was written among them (O29). -/

namespace Sys2Proof.Machine

open Sys2Proof.Spec

/-! ### Bytes written -/

/-- Bytes that find room are appended (R48). -/
theorem appended_pushBytes {bs : List Byte} {s : State}
    (h : bs = [] ∨ s.spos.toNat + bs.length ≤ s.cfg.strBytes.toNat) : Appended bs s (s.pushBytes bs) := by
  by_cases hbs : bs = []
  · subst hbs
    refine ⟨?_, fun a => (ite_self _).symm⟩
    show s = { s with spos := s.spos + 0#32, slen := if _ then _ else _ }
    rw [BitVec.add_zero, if_pos (.inl rfl)]
  · have hroom := h.resolve_left hbs
    have hspos := State.pushBytes_spos bs s
    have hslen : (s.pushBytes bs).slen = if bs = [] ∨ s.spos.toNat + bs.length ≤ s.slen.toNat then s.slen
        else s.spos + BitVec.ofNat 32 bs.length := by
      have hmax := State.pushBytes_slen_toNat hroom hbs
      have hend := State.pushBytes_spos_toNat hroom
      rw [hspos] at hend
      apply BitVec.eq_of_toNat_eq
      split
      · rename_i hle
        have := hle.resolve_left hbs
        omega
      · rename_i hgt
        have := not_or.mp hgt
        omega
    refine ⟨?_, State.readStr_pushBytes hroom⟩
    have honly := s.pushBytes_only bs
    unfold StreamOnly at honly
    rwa [hspos, hslen] at honly

/-- The bytes before the end of `STR` are appended, wherever `SPOS` stands (R48, R163). -/
theorem appended_take (bs : List Byte) (s : State) :
    Appended (bs.take (s.cfg.strBytes.toNat - s.spos.toNat)) s
      (s.pushBytes (bs.take (s.cfg.strBytes.toNat - s.spos.toNat))) := by
  refine appended_pushBytes ?_
  by_cases h : s.spos.toNat ≤ s.cfg.strBytes.toNat
  · exact .inr (by rw [List.length_take]; omega)
  · exact .inl (by rw [Nat.sub_eq_zero_of_le (by omega), List.take_zero])

/-- A command that is one sequence of `PutByte`s and then one plain write (R48, R163). -/
theorem writes_of_body {i : Instr} {body : Op Unit} {bs : List Byte} {finish : State → State} {s : State}
    (hi : exec i s = command i.word body s) (hr : s.Ready) (hbs : bs ≠ [])
    (hb : body s = (putBytes bs >>= fun _ => update finish) s) : Writes i bs finish s := by
  rw [Writes, hi, command_ready hr, hb, bind_apply, putBytes_apply bs s (.inr hbs)]
  by_cases hroom : s.spos.toNat + bs.length ≤ s.cfg.strBytes.toNat
  · rw [if_pos hroom, if_pos hroom]
    exact ⟨_, appended_pushBytes (.inr hroom), rfl⟩
  · rw [if_neg hroom, if_neg hroom]
    exact ⟨_, appended_take bs s, rfl⟩

/-! ### HDR_WR -/

/-- A plain write of nothing at the end. -/
theorem bind_update_id (x : Op Unit) (s : State) : (x >>= fun _ => update id) s = x s := by
  rw [bind_apply]
  cases x s <;> rfl

theorem headerBytes_ne_nil (h w : Nat) : headerBytes h w ≠ [] := List.cons_ne_nil _ _

/-- The check of HDR_WR passes for a geometry without 0 (R101). -/
theorem hdrWr_check {s : State} (hw : s.width ≠ 0#32) (hh : s.height ≠ 0#32) :
    reading (fun s => s.width == 0#32 || s.height == 0#32) (fun z => raiseIf z .configFault) s = .ok () s := by
  have hcheck : (s.width == 0#32 || s.height == 0#32) = false := by simp [hw, hh]
  rw [reading_apply, hcheck]
  rfl

/-- Settles O26: past its check HDR_WR is `PutByte` of the header's bytes. -/
theorem hdrWrWritesTheHeader : Obligations.HdrWrWritesTheHeader := by
  unfold Obligations.HdrWrWritesTheHeader
  refine ⟨rfl, fun s hr => ⟨fun ⟨hw, hh⟩ => ?_, fun h0 => configFaults_of_body rfl hr ?_⟩⟩
  · refine writes_of_body rfl hr (headerBytes_ne_nil _ _) ?_
    rw [bind_update_id, ← headerText_eq_headerBytes hh hw, bind_ok (hdrWr_check hw hh)]
    rfl
  · have hcheck : (s.width == 0#32 || s.height == 0#32) = true := by simpa using h0
    rw [bind_apply, reading_apply, hcheck]
    rfl

/-! ### The lines of a header in any spelling -/

theorem isDigit_iff {d : Byte} : isDigit d = true ↔ 0x30 ≤ d.toNat ∧ d.toNat ≤ 0x39 := by simp [isDigit]

/-- No digit is the line end (R40, R102). -/
theorem lineEnd_notMem_digits {ds : List Byte} (h : ∀ d ∈ ds, isDigit d = true) : lineEnd ∉ ds := fun hmem =>
  absurd (h _ hmem) (by decide)

theorem dimension_ofNat {n : Nat} (h1 : 1 ≤ n) (h2 : n ≤ 4294967295) : dimension n = some (BitVec.ofNat 32 n) :=
  if_pos ⟨h1, h2⟩

/-- Every dimension line of R105 in the model's own parts: the tags, and digits that are not none. -/
theorem dimensions_parts {l : List Byte} {h w : Nat} (hd : Dimensions l h w) :
    ∃ d1 d2, l = heightTag ++ (d1 ++ (widthTag ++ d2)) ∧ (∀ d ∈ d1, isDigit d = true) ∧ (∀ d ∈ d2, isDigit d = true) ∧
      d1.length ≠ 0 ∧ d2.length ≠ 0 ∧ digitsValue d1 = h ∧ digitsValue d2 = w := by
  obtain ⟨d1, d2, rfl, ⟨hn1, hd1, rfl⟩, ⟨hn2, hd2, rfl⟩, -⟩ := hd
  refine ⟨d1, d2, ?_, fun d hm => isDigit_iff.mpr (hd1 d hm), fun d hm => isDigit_iff.mpr (hd2 d hm),
    fun e => hn1 (List.eq_nil_of_length_eq_zero e), fun e => hn2 (List.eq_nil_of_length_eq_zero e), rfl, rfl⟩
  simp only [List.append_assoc]
  rfl

/-- Every dimension line of R105 is read as the geometry it names. -/
theorem parseDimensions_of_dimensions {l : List Byte} {h w : Nat} (hd : Dimensions l h w) :
    parseDimensions l = some (BitVec.ofNat 32 h, BitVec.ofNat 32 w) := by
  obtain ⟨-, -, -, -, -, hh1, hh2, hw1, hw2⟩ := id hd
  obtain ⟨d1, d2, rfl, hd1, hd2, hn1, hn2, hv1, hv2⟩ := dimensions_parts hd
  have hrest : ∀ d ∈ (widthTag ++ d2).head?, isDigit d = false := by
    rintro d ⟨⟩; decide
  have hheight := takeDigits_append hd1 hrest
  have hwidth := takeDigits_append (rest := []) hd2 nofun
  rw [List.append_nil] at hwidth
  simp only [parseDimensions, afterTag_append, hheight, hwidth, hv1, hv2, dimension_ofNat hh1 hh2,
    dimension_ofNat hw1 hw2, hn1, hn2, ne_eq, not_true_eq_false, or_self, if_false]

/-- A dimension line is a line, and begins `-Y ` (R103, R105). -/
theorem dimensions_isLine {l : List Byte} {h w : Nat} (hd : Dimensions l h w) : lineEnd ∉ l ∧ l.take 3 = heightTag := by
  obtain ⟨d1, d2, rfl, hd1, hd2, -⟩ := dimensions_parts hd
  have h1 : lineEnd ∉ heightTag := by decide
  have h2 : lineEnd ∉ widthTag := by decide
  refine ⟨?_, rfl⟩
  simp only [List.mem_append, h1, h2, lineEnd_notMem_digits hd1, lineEnd_notMem_digits hd2, or_self, not_false_eq_true]

theorem ne_formatText_of_tag {l : List Byte} (h : l.take 3 = heightTag) : l ≠ formatText := by
  rintro rfl; exact absurd h (by decide)

theorem lineBytes_cons (l : List Byte) (ls : List (List Byte)) : lineBytes (l :: ls) = (l ++ [lineEnd]) ++ lineBytes ls :=
  List.flatMap_cons

theorem lineBytes_append (ls ms : List (List Byte)) : lineBytes (ls ++ ms) = lineBytes ls ++ lineBytes ms :=
  List.flatMap_append

/-- Every line takes at least its 0x0A. -/
theorem length_le_lineBytes (ls : List (List Byte)) : ls.length ≤ (lineBytes ls).length := by
  induction ls with
  | nil => exact Nat.le_refl 0
  | cons l ls ih =>
    rw [lineBytes_cons, List.length_append, List.length_append, List.length_cons, List.length_singleton]
    omega

/-- Lines before the dimension line are read over; the format line among them is remembered (R103). -/
theorem readFields_lines {ls : List (List Byte)} {fuel : Nat} {seen : Bool} {s : State}
    (hls : ∀ l ∈ ls, IsLine l ∧ ¬ IsDimensionLine l) (hn : Next s (lineBytes ls)) :
    readFields (fuel + ls.length) seen s =
      readFields fuel (seen || decide (formatLine ∈ ls)) (s.moveCursor (lineBytes ls).length) := by
  induction ls generalizing seen s with
  | nil =>
    rw [decide_eq_false List.not_mem_nil, Bool.or_false]
    exact congrArg _ s.moveCursor_zero.symm
  | cons l ls ih =>
    obtain ⟨⟨hline, hdim⟩, hothers⟩ := List.forall_mem_cons.mp hls
    rw [lineBytes_cons] at hn ⊢
    obtain ⟨hfirst, hrest⟩ := next_append hn
    rw [List.length_cons, ← Nat.add_assoc, List.length_append (bs := lineBytes ls), ← State.moveCursor_moveCursor]
    by_cases hf : l = formatLine
    · subst hf
      have hread : readFields (fuel + ls.length + 1) seen s = _ := readFields_format hfirst
      refine hread.trans ((ih hothers hrest).trans ?_)
      simp
    · rw [readFields_other hline hf hdim hfirst, ih hothers hrest]
      simp [Ne.symm hf]

/-- The dimension line after the format line, in any spelling (R103, R105). -/
theorem readFields_dimensions {l : List Byte} {h w fuel : Nat} {s : State} (hd : Dimensions l h w)
    (hn : Next s (l ++ [lineEnd])) :
    readFields (fuel + 1) true s =
      .ok () ((s.moveCursor (l ++ [lineEnd]).length).setDimensions (BitVec.ofNat 32 h) (BitVec.ofNat 32 w)) := by
  obtain ⟨hline, htag⟩ := dimensions_isLine hd
  rw [readFields, bind_ok (readLine_next hline hn), if_neg (ne_formatText_of_tag htag), if_pos htag, takeDimensions,
    if_pos rfl, parseDimensions_of_dimensions hd]
  rfl

/-- The header reader over a header in any spelling takes its geometry and leaves the cursor behind it (R103 to R105). -/
theorem readHeader_isHeader {bs : List Byte} {h w : Nat} {s : State} (hbs : IsHeader bs h w) (hn : Next s bs) :
    readHeader s =
      .ok () ((s.moveCursor bs.length).setDimensions (BitVec.ofNat 32 h) (BitVec.ofNat 32 w)) := by
  obtain ⟨ls, dim, hls, hformat, hdim, rfl⟩ := hbs
  have hlast : lineBytes [dim] = dim ++ [lineEnd] := (lineBytes_cons dim []).trans (List.append_nil _)
  rw [List.cons_append, lineBytes_cons, lineBytes_append, hlast] at hn ⊢
  obtain ⟨hmagic, hfields⟩ := next_append hn
  obtain ⟨hlines, hdimension⟩ := next_append hfields
  have hmagicLine : raiseIf (magicLine != magicText) .malformedHeader (s.moveCursor (magicLine ++ [lineEnd]).length) =
      .ok () (s.moveCursor (magicLine ++ [lineEnd]).length) := rfl
  obtain ⟨fuel, hfuel⟩ : ∃ n, (s.moveCursor (magicLine ++ [lineEnd]).length).slen.toNat -
      (s.moveCursor (magicLine ++ [lineEnd]).length).spos.toNat = n + 1 + ls.length := by
    have hle := hfields.2
    have hlen := length_le_lineBytes ls
    simp only [List.length_append, List.length_singleton] at hle ⊢
    exact ⟨_, (Nat.sub_add_cancel (by omega)).symm.trans (Nat.add_assoc _ 1 _).symm⟩
  rw [readHeader, bind_ok (readLine_next (by decide) hmagic), bind_ok hmagicLine, reading_apply, hfuel,
    readFields_lines hls hlines, decide_eq_true hformat, Bool.or_true, readFields_dimensions hdim hdimension]
  simp only [State.moveCursor_moveCursor, List.length_append, Nat.add_assoc]

/-- Settles O27: HDR_RD is the header reader. -/
theorem hdrRdReadsTheHeader : Obligations.HdrRdReadsTheHeader := by
  unfold Obligations.HdrRdReadsTheHeader
  intro s bs h w hr hbs hn
  refine (command_ready hr).trans ?_
  rw [readHeader_isHeader hbs hn]
  rfl

/-- Settles O29: the header HDR_WR wrote comes next at the old `SPOS`, and is read as the geometry it was written for. -/
theorem headerFidelity : Obligations.HeaderFidelity := by
  unfold Obligations.HeaderFidelity
  intro s hr hw hh hroom
  rw [← headerText_eq_headerBytes hh hw] at hroom
  have hwrote := wrote_pushBytes hroom
  have hexec : exec .hdrWr s = .next (s.pushBytes (headerText s.height s.width)) := by
    refine (command_ready hr).trans ?_
    rw [bind_ok (hdrWr_check hw hh), writeHeader, reading_apply, putBytes_room hroom, settle_ok]
  have hspos := hwrote.spos
  have honly : StreamOnly s (s.pushBytes (headerText s.height s.width)) := s.pushBytes_only _
  have herr := hwrote.err.trans hr.2
  refine ⟨_, hexec, herr, fun w h => ?_⟩
  have hnext := hwrote.next (headerText_ne_nil _ _)
  generalize s.pushBytes (headerText s.height s.width) = t at *
  unfold StreamOnly at honly
  refine (command_ready (s := { t with spos := s.spos, width := w, height := h }) ⟨?_, herr⟩).trans ?_
  · rw [honly]; exact hr.1
  · rw [readHeader_headerText (s := { t with spos := s.spos, width := w, height := h }) hh hw hnext, settle_ok]
    refine congrArg Host.Outcome.next ?_
    show ({ t with spos := s.spos + _, width := s.width, height := s.height } : State) = t
    rw [← hspos, honly]

end Sys2Proof.Machine
end

section
/-! ENC_IMAGE byte by byte (O33): the header and as many scanlines as find room, then the part of the next that does, with
`YCNT` and `STRAT` as its last complete scanline left them. -/

namespace Sys2Proof.Machine

open Sys2Proof.Spec

/-! ### Loops in two parts -/

theorem times_add (body : Op Unit) (m n : Nat) (s : State) :
    times body (m + n) s = (times body m >>= fun _ => times body n) s := by
  induction m generalizing s with
  | zero => rw [Nat.zero_add]; rfl
  | succ m ih =>
    rw [Nat.succ_add, times_succ, times_succ, bind_assoc]
    exact congrFun (congrArg (body >>= ·) (funext fun _ => funext ih)) s

/-! ### Scanlines written -/

@[simp] theorem State.pushBytes_status (bs : List Byte) (s : State) : (s.pushBytes bs).status = s.status := by
  rw [s.pushBytes_only]

/-- What `STRAT` is written into is `STATUS` alone (R24). -/
theorem setStrat_status_congr {s t : State} (h : t.status = s.status) (b : Bool) :
    (t.setStrat b).status = (s.setStrat b).status := by
  rw [State.setStrat_status, State.setStrat_status, h]

/-- `t` is `s` after `PutByte` of `bs` in order with room for all of them, `n` scanlines ended among them (R48, R127). -/
structure Encoded (bs : List Byte) (n : Nat) (s t : State) : Prop extends Wrote bs s t where
  ycnt : t.ycnt = s.ycnt + BitVec.ofNat 32 n
  status : t.status = if n = 0 then s.status else (s.setStrat (rleWidth s.width.toNat)).status

theorem encoded_pushBytes {bs : List Byte} {s : State} (h : s.spos.toNat + bs.length ≤ s.cfg.strBytes.toNat) :
    Encoded bs 0 s (s.pushBytes bs) where
  toWrote := wrote_pushBytes h
  ycnt := by rw [s.pushBytes_only]; exact (BitVec.add_zero _).symm
  status := s.pushBytes_status bs

theorem Encoded.trans {as bs : List Byte} {m n : Nat} {s t u : State} (h : Encoded as m s t) (k : Encoded bs n t u) :
    Encoded (as ++ bs) (m + n) s u where
  toWrote := h.toWrote.trans k.toWrote
  ycnt := by rw [k.ycnt, h.ycnt, BitVec.ofNat_add, BitVec.add_assoc]
  status := by
    obtain ⟨hwidth, -⟩ := h.scanOut.fileOut.geometry
    have hs := h.status
    rw [k.status, hwidth]
    by_cases hm : m = 0
    · rw [if_pos hm] at hs
      rw [hm, Nat.zero_add, hs, setStrat_status_congr hs]
    · rw [if_neg hm] at hs
      rw [if_neg (by omega : m + n ≠ 0), hs, setStrat_status_congr hs, State.setStrat_setStrat_status, ite_self]

/-- A scanline that finds room (R127). -/
theorem encodeScan_encoded {s : State} (hw : 0 < s.width.toNat)
    (h : s.spos.toNat + (scanBytes s s.ycnt.toNat).length ≤ s.cfg.strBytes.toNat) :
    ∃ t, encodeScan s = .ok () t ∧ Encoded (scanBytes s s.ycnt.toNat) 1 s t := by
  have hscan := encodeScan_room h
  obtain ⟨hwrote, hy⟩ := encodeScan_wrote hw hscan
  refine ⟨_, hscan, hwrote, hy, ?_⟩
  rw [State.endScan_status, setStrat_status_congr (s.pushBytes_status _), State.useRle_eq]
  rfl

/-- A scanline that does not: the bytes that find room are written, and it does not end (R127, R163). -/
theorem encodeScan_full {s : State} (hs : s.spos.toNat ≤ s.cfg.strBytes.toNat)
    (h : s.cfg.strBytes.toNat < s.spos.toNat + (scanBytes s s.ycnt.toNat).length) :
    ∃ t, encodeScan s = .error .ioError t ∧
      Encoded ((scanBytes s s.ycnt.toNat).take (s.cfg.strBytes.toNat - s.spos.toNat)) 0 s t := by
  refine ⟨_, ?_, encoded_pushBytes ?_⟩
  · rw [encodeScan_eq, bind_error (putBytes_full hs (Nat.not_le_of_lt h))]
  · rw [List.length_take]; omega

/-- As many scanlines as find room (R127, R128). -/
theorem encodeScans_encoded {n : Nat} {s : State} (hw : 0 < s.width.toNat) (hy : s.ycnt.toNat + n ≤ s.height.toNat)
    (hs : s.spos.toNat + (imageBytes s s.ycnt.toNat n).length ≤ s.cfg.strBytes.toNat) :
    ∃ t, times encodeScan n s = .ok () t ∧ Encoded (imageBytes s s.ycnt.toNat n) n s t := by
  induction n generalizing s with
  | zero => exact ⟨s, rfl, encoded_pushBytes (bs := []) hs⟩
  | succ n ih =>
    rw [imageBytes_succ] at hs ⊢
    rw [List.length_append] at hs
    obtain ⟨t, ht, hst⟩ := encodeScan_encoded hw (by omega)
    have honly := hst.scanOut
    obtain ⟨hwidth, hheight, -, hcfg⟩ := honly.fileOut.geometry
    have hsucc : t.ycnt.toNat = s.ycnt.toNat + 1 := hst.ycnt ▸ ycnt_succ_toNat hy s.height.isLt
    have hbytes : imageBytes t t.ycnt.toNat n = imageBytes s (s.ycnt.toNat + 1) n := by
      rw [imageBytes_congr honly.scanBytes, hsucc]
    obtain ⟨u, hu, htu⟩ := ih (hwidth ▸ hw) (by rw [hsucc, hheight]; omega)
      (by rw [hbytes, hst.spos_toNat, hcfg]; omega)
    rw [hbytes] at htu
    refine ⟨u, by rw [times_succ, bind_ok ht, hu], ?_⟩
    rw [Nat.add_comm n 1]
    exact hst.trans htu

theorem imageBytes_snoc (s : State) (y n : Nat) :
    imageBytes s y (n + 1) = imageBytes s y n ++ scanBytes s (y + n) := by
  rw [imageBytes, List.range'_concat, List.flatMap_append, Nat.one_mul, List.flatMap_singleton]
  rfl

/-- `n` scanlines that find room and one more that does not (R127, R128, R163). -/
theorem encodeScans_full {n m : Nat} {s : State} (hw : 0 < s.width.toNat) (hnm : n < m)
    (hy : s.ycnt.toNat + m ≤ s.height.toNat)
    (hroom : s.spos.toNat + (imageBytes s s.ycnt.toNat n).length ≤ s.cfg.strBytes.toNat)
    (hfull : s.cfg.strBytes.toNat < s.spos.toNat + (imageBytes s s.ycnt.toNat (n + 1)).length) :
    ∃ t, times encodeScan m s = .error .ioError t ∧
      Encoded ((imageBytes s s.ycnt.toNat (n + 1)).take (s.cfg.strBytes.toNat - s.spos.toNat)) n s t := by
  obtain ⟨t, ht, hst⟩ := encodeScans_encoded (n := n) hw (by omega) hroom
  have honly := hst.scanOut
  obtain ⟨hwidth, hheight, -, hcfg⟩ := honly.fileOut.geometry
  have hyt : t.ycnt.toNat = s.ycnt.toNat + n := by
    have := s.height.isLt
    rw [hst.ycnt, BitVec.toNat_add, BitVec.toNat_ofNat]
    omega
  have hscan : scanBytes t t.ycnt.toNat = scanBytes s (s.ycnt.toNat + n) := by rw [honly.scanBytes, hyt]
  have hpos := hst.spos_toNat
  rw [imageBytes_snoc, List.length_append] at hfull
  obtain ⟨u, hu, htu⟩ := encodeScan_full (s := t) (by rw [hpos, hcfg]; exact hroom)
    (by rw [hscan, hpos, hcfg]; omega)
  obtain ⟨k, rfl⟩ : ∃ k, m = n + (k + 1) := ⟨m - (n + 1), by omega⟩
  refine ⟨u, by rw [times_add, bind_ok ht, times_succ, bind_error hu], ?_⟩
  rw [imageBytes_snoc, List.take_append, List.take_of_length_le (by omega)]
  rw [hscan, hpos, hcfg] at htu
  rw [Nat.sub_sub]
  exact hst.trans htu

/-! ### The file -/

/-- The header and the first `n` scanlines of the file of the planes of `s` (R128). -/
def fileStart (s : State) (n : Nat) : List Byte := headerText s.height s.width ++ imageBytes s 0 n

/-- The file behind its header, where that finds room (R128). -/
theorem writeFile_header {s : State}
    (h : s.spos.toNat + (headerText s.height s.width).length ≤ s.cfg.strBytes.toNat) :
    writeFile s = times encodeScan s.height.toNat (s.pushBytes (headerText s.height s.width)).firstScan := by
  have hheader : writeHeader s = .ok () (s.pushBytes (headerText s.height s.width)) := putBytes_room h
  rw [writeFile, bind_ok hheader, bind_ok (update_apply _ _), reading_apply, State.firstScan_height, s.pushBytes_only]

/-- A header that does not find room (R163). -/
theorem writeFile_header_full {s : State}
    (h : s.cfg.strBytes.toNat < s.spos.toNat + (headerText s.height s.width).length) :
    writeFile s = .error .ioError
      (s.pushBytes ((headerText s.height s.width).take (s.cfg.strBytes.toNat - s.spos.toNat))) := by
  have hheader : writeHeader s = putBytes (headerText s.height s.width) s := rfl
  rw [putBytes_apply _ s (.inr (headerText_ne_nil _ _)), if_neg (Nat.not_le_of_lt h)] at hheader
  rw [writeFile, bind_error hheader]

/-- `s` with `bs` of its file written and `n` scanlines of it ended (R128). -/
def State.encodedFile (bs : List Byte) (n : Nat) (s : State) : State :=
  { s.pushBytes bs with
    ycnt := BitVec.ofNat 32 n
    status := if n = 0 then s.status else (s.setStrat (rleWidth s.width.toNat)).status }

/-- What is written behind the header, seen from the state before it. -/
theorem encodedFile_of_encoded {head bs : List Byte} {n : Nat} {s t : State}
    (h : Encoded bs n (s.pushBytes head).firstScan t) : t = s.encodedFile (head ++ bs) n := by
  have honly := h.only
  have hstart : (s.pushBytes head).firstScan =
      { s.pushBytes head with ycnt := 0#32, status := (s.pushBytes head).status } := rfl
  have hwidth : (s.pushBytes head).firstScan.width = s.width := by rw [State.firstScan_width, s.pushBytes_only]
  have hstatus : (s.pushBytes head).firstScan.status = s.status := s.pushBytes_status head
  rw [h.ycnt, h.status, hwidth, hstatus, setStrat_status_congr hstatus, State.firstScan_ycnt, BitVec.zero_add, hstart,
    State.pushBytes_scanState, ← State.pushBytes_append] at honly
  exact honly

/-- The scanlines behind a header that finds room, seen from the state before it. -/
theorem firstScan_imageBytes {s : State}
    (h : s.spos.toNat + (headerText s.height s.width).length ≤ s.cfg.strBytes.toNat) :
    ∃ v, v = (s.pushBytes (headerText s.height s.width)).firstScan ∧ v.ycnt.toNat = 0 ∧ v.width = s.width ∧
      v.height = s.height ∧ v.cfg = s.cfg ∧ v.spos.toNat = s.spos.toNat + (headerText s.height s.width).length ∧
      ∀ n, imageBytes v v.ycnt.toNat n = imageBytes s 0 n := by
  have hwrote := (wrote_pushBytes h).firstScan
  obtain ⟨hwidth, hheight, -, hcfg⟩ := hwrote.scanOut.fileOut.geometry
  exact ⟨_, rfl, rfl, hwidth, hheight, hcfg, hwrote.spos_toNat, imageBytes_congr hwrote.scanOut.scanBytes 0⟩

/-- A file that finds room (R128). -/
theorem writeFile_ok {s : State} (hw : 0 < s.width.toNat)
    (h : s.spos.toNat + (fileStart s s.height.toNat).length ≤ s.cfg.strBytes.toNat) :
    writeFile s = .ok () (s.encodedFile (fileStart s s.height.toNat) s.height.toNat) := by
  rw [fileStart, List.length_append] at h
  have hhead : s.spos.toNat + (headerText s.height s.width).length ≤ s.cfg.strBytes.toNat := by omega
  obtain ⟨v, hv, hy, hwidth, hheight, hcfg, hpos, hbytes⟩ := firstScan_imageBytes hhead
  obtain ⟨t, ht, hvt⟩ := encodeScans_encoded (n := s.height.toNat) (s := v) (hwidth ▸ hw) (by rw [hy, hheight]; omega)
    (by rw [hbytes, hpos, hcfg]; omega)
  rw [hbytes, hv] at hvt
  rw [writeFile_header hhead, ← hv, ht, encodedFile_of_encoded hvt]
  rfl

/-- A file whose scanline `n` is the first that does not find room (R128, R163). -/
theorem writeFile_full {n : Nat} {s : State} (hw : 0 < s.width.toNat) (hn : n < s.height.toNat)
    (hroom : s.spos.toNat + (fileStart s n).length ≤ s.cfg.strBytes.toNat)
    (hfull : s.cfg.strBytes.toNat < s.spos.toNat + (fileStart s (n + 1)).length) :
    writeFile s = .error .ioError
      (s.encodedFile ((fileStart s (n + 1)).take (s.cfg.strBytes.toNat - s.spos.toNat)) n) := by
  rw [fileStart, List.length_append] at hroom hfull
  have hhead : s.spos.toNat + (headerText s.height s.width).length ≤ s.cfg.strBytes.toNat := by omega
  obtain ⟨v, hv, hy, hwidth, hheight, hcfg, hpos, hbytes⟩ := firstScan_imageBytes hhead
  obtain ⟨t, ht, hvt⟩ := encodeScans_full (n := n) (s := v) (hwidth ▸ hw) hn (by rw [hy, hheight]; omega)
    (by rw [hbytes, hpos, hcfg]; omega) (by rw [hbytes, hpos, hcfg]; omega)
  rw [hbytes, hpos, hcfg, hv] at hvt
  rw [writeFile_header hhead, ← hv, ht, encodedFile_of_encoded hvt, fileStart, List.take_append,
    List.take_of_length_le (l := headerText s.height s.width) (by omega), Nat.sub_sub]

/-! ### ENC_IMAGE -/

theorem exec_img2pln {s : State} (hr : s.Ready) (hg : s.geomFits s.planes true = true) :
    exec .img2pln s = .next s.quantized := by
  refine (command_ready hr).trans ?_
  rw [bind_check (checkGeom_apply _ _ s), if_pos hg, quantizeImage_apply, settle_ok]
  rfl

/-- A geometry that does not fit ends ENC_IMAGE (R166). -/
theorem encImage_configFaults {s : State} (hr : s.Ready) (hg : ¬ s.geomFits s.planes true = true) :
    ConfigFaults .encImage s := by
  refine configFaults_of_body rfl hr ?_
  rw [bind_check (checkGeom_apply _ _ s), if_neg hg]

/-- Settles O33: ENC_IMAGE is its quantization and then the file of the planes, which ends at its last scanline, inside
its header or inside a scanline. -/
theorem encImageWritesTheFile : Obligations.EncImageWritesTheFile := by
  unfold Obligations.EncImageWritesTheFile
  refine ⟨rfl, fun s hr => ⟨fun hgeom => ?_, fun hgeom => ?_⟩⟩
  case refine_2 => exact encImage_configFaults hr fun hg => hgeom ((State.geomFits_iff _ _ s).mp hg)
  have hg := (State.geomFits_iff _ _ s).mpr hgeom
  obtain ⟨hw0, hh0, -⟩ := hgeom
  have hexec := exec_encImage hr hg
  have hw := State.width_pos hg
  have honly := s.quantized_only
  refine ⟨_, exec_img2pln hr hg, ?_⟩
  rw [← headerText_eq_headerBytes hh0 hw0]
  obtain ⟨hwidth, hheight, -, hcfg⟩ := honly.fileOut.geometry
  have hspos : s.quantized.spos = s.spos := by rw [honly]
  rw [← hwidth] at hw ⊢
  rw [← hheight, ← hspos, ← hcfg]
  have hh : 0 < s.quantized.height.toNat := hheight ▸ Nat.pos_of_ne_zero fun e => hh0 (BitVec.eq_of_toNat_eq e)
  generalize s.quantized = u at hexec hw hh ⊢
  intro rle head file room
  have hfile : ∀ y, file y = fileStart u y := fun y => by
    simp only [file, head, fileStart, imageBytes, List.range_eq_range']
  simp only [hfile, hexec]
  refine ⟨fun hroom => ⟨_, appended_pushBytes (.inr hroom), ?_⟩, fun hfull => ⟨_, appended_take head u, ?_⟩,
    fun y hy hroom hfull => ⟨_, appended_take _ u, ?_⟩⟩
  · rw [writeFile_ok hw hroom, settle_ok, State.encodedFile, if_neg hh.ne', BitVec.ofNat_toNat, BitVec.setWidth_eq,
      setStrat_status_congr (u.pushBytes_status _)]
  · rw [writeFile_header_full hfull]
    rfl
  · rw [writeFile_full hw hy hroom hfull, settle_error, State.encodedFile, setStrat_status_congr (u.pushBytes_status _),
      State.pushBytes_status]
    rfl

end Sys2Proof.Machine
end

section
/-! Where the row decoder stores (R136, R140, R141): whatever the stream holds, and whether it runs to its end or raises,
`RleDecodeRow` and the flat loop write `PLN` inside the rows they were given and nowhere else. -/

namespace Sys2Proof.Machine

open Sys2Proof.Spec

/-! ### Cells of `PLN` -/

/-- Every cell of a plane row of `w` bytes with destination `dst` is one of `A`. -/
def RowWithin (A : Nat → Prop) (w : Nat) (dst : Option Nat) : Prop := ∀ a, dst = some a → ∀ i, i < w → A (a + i)

/-- `t` is `s` after part of a scanline or more, with `PLN` written in cells of `A` only. -/
structure StoredIn (A : Nat → Prop) (s t : State) : Prop where
  only : ScanInOnly s t
  pln : ∀ a, ¬ A a → t.readPln a = s.readPln a

theorem StoredIn.refl (A : Nat → Prop) (s : State) : StoredIn A s s := ⟨rfl, fun _ _ => rfl⟩

/-- Decoding a scanline leaves the geometry (R141). -/
theorem ScanInOnly.geometry {s t : State} (h : ScanInOnly s t) :
    t.width = s.width ∧ t.height = s.height ∧ t.mode = s.mode := by
  rw [h]; exact ⟨rfl, rfl, rfl⟩

theorem ScanInOnly.inRow {s t : State} (h : ScanInOnly s t) (y a : Nat) : InRow t y a ↔ InRow s y a := by
  rw [h]; rfl

section Row

variable {A : Nat → Prop} {g : State}

theorem StoredIn.width {s : State} (h : StoredIn A g s) : s.width = g.width := h.only.geometry.1

theorem storedIn_getByte (f : FaultCode) : Op.Preserves (StoredIn A g) (getByte f) := fun s hs =>
  have h := getByte_keeps f s
  ⟨scanInOnly_chains.trans _ _ _ hs.only h.rowIn.scanIn, fun a ha => by rw [h]; exact hs.pln a ha⟩

theorem storedIn_storeAt {dst : Option Nat} {i : Nat} (hd : RowWithin A g.width.toNat dst) (hi : i < g.width.toNat)
    (v : Byte) : Op.Preserves (StoredIn A g) (storeAt dst i v) := by
  cases dst with
  | none => exact Op.keeps_pure preserves_chains ()
  | some d =>
    refine Op.keeps_update fun s hs => ⟨scanInOnly_chains.trans _ _ _ hs.only rfl, fun a ha => ?_⟩
    rw [State.readPln_writePln, if_neg fun e : a = d + i => ha (e ▸ hd d rfl i hi)]
    exact hs.pln a ha

/-- The length check of a run keeps its bytes inside the row (R136). -/
theorem storedIn_controlRun {dst : Option Nat} (hd : RowWithin A g.width.toNat dst) (b : Byte) (done : Nat) :
    Op.Preserves (StoredIn A g) (controlRun b dst done) := by
  unfold controlRun
  split
  · exact Op.keeps_raise preserves_chains _
  · split
    all_goals
      refine Op.preserves_check (checkRun_apply done _) fun s hn hs => ?_
      rw [hs.width] at hn
    · exact Op.keeps_bind preserves_chains (storedIn_getByte _)
        (fun v => Op.preserves_forUp fun j _ hj => storedIn_storeAt hd (by omega) v) s hs
    · exact Op.preserves_forUp (fun j _ hj => Op.keeps_bind preserves_chains (storedIn_getByte _)
        fun v => storedIn_storeAt hd (by omega) v) s hs

theorem storedIn_decodeRun {dst : Option Nat} (hd : RowWithin A g.width.toNat dst) (done : Nat) :
    Op.Preserves (StoredIn A g) (decodeRun dst done) :=
  Op.keeps_bind preserves_chains (storedIn_getByte _) fun b =>
    Op.keeps_bind preserves_chains (storedIn_controlRun hd b done) fun _ => Op.keeps_pure preserves_chains _

theorem storedIn_rleDecodeRow {dst : Option Nat} (hd : RowWithin A g.width.toNat dst) :
    Op.Preserves (StoredIn A g) (rleDecodeRow dst) := by
  suffices ∀ n done, Op.Preserves (StoredIn A g) (decodeRuns dst n done) from Op.keeps_reading fun w => this w 0
  intro n
  induction n with
  | zero => exact fun _ => Op.keeps_pure preserves_chains ()
  | succ n ih =>
    intro done
    refine Op.keeps_reading fun more => ?_
    cases more with
    | true => exact Op.keeps_bind preserves_chains (storedIn_decodeRun hd done) fun m => ih (done + m)
    | false => exact Op.keeps_pure preserves_chains ()

theorem storedIn_decodeRows {ds : List (Option Nat)} (hds : ∀ d ∈ ds, RowWithin A g.width.toNat d) :
    Op.Preserves (StoredIn A g) (decodeRows ds) := by
  induction ds with
  | nil => exact Op.keeps_pure preserves_chains ()
  | cons d ds ih =>
    rw [List.forall_mem_cons] at hds
    exact Op.keeps_bind preserves_chains (storedIn_rleDecodeRow hds.1) fun _ => ih hds.2

theorem storedIn_flatPixel {x : Nat} (hx : x < g.width.toNat) {ds : List (Option Nat)}
    (hds : ∀ d ∈ ds, RowWithin A g.width.toNat d) : Op.Preserves (StoredIn A g) (flatPixel x ds) := by
  induction ds with
  | nil => exact Op.keeps_pure preserves_chains ()
  | cons d ds ih =>
    rw [List.forall_mem_cons] at hds
    exact Op.keeps_bind preserves_chains (storedIn_getByte _) fun v =>
      Op.keeps_bind preserves_chains (storedIn_storeAt hds.1 hx v) fun _ => ih hds.2

theorem storedIn_decodeScanAs (b : Bool) {ds : List (Option Nat)} (hds : ∀ d ∈ ds, RowWithin A g.width.toNat d) :
    Op.Preserves (StoredIn A g) (decodeScanAs b ds) := by
  cases b with
  | true =>
    have hmarker : Op.Preserves (StoredIn A g) skipMarker := Op.keeps_times preserves_chains
      (Op.keeps_bind preserves_chains (storedIn_getByte _) fun _ => Op.keeps_pure preserves_chains ()) 4
    exact Op.keeps_bind preserves_chains hmarker fun _ => storedIn_decodeRows hds
  | false =>
    refine fun s hs => Op.final_reading (Op.preserves_forUp (fun x _ hx => ?_) s hs)
    simp only [hs.width, Nat.zero_add] at hx
    exact storedIn_flatPixel hx hds

/-! ### Scanlines -/

/-- The destinations of a scanline are rows of its planes (R140). -/
theorem State.destinations_within {s : State} {y : Nat} : ∀ d ∈ s.destinations y, RowWithin (InRow s y) s.width.toNat d := by
  rintro d hd a rfl i hi
  obtain ⟨k, hk, rfl⟩ := State.mem_destinations hd
  exact ⟨k, i, hk, hi, rfl⟩

/-- A scanline is stored in the rows of `YCNT` (R140, R141). -/
theorem storedIn_decodeScan {s : State} (hs : StoredIn A g s) (hA : ∀ a, InRow g s.ycnt.toNat a → A a) :
    StoredIn A g (decodeScan.final s) := by
  have hds : ∀ d ∈ s.destinations s.ycnt.toNat, RowWithin A g.width.toNat d := fun d hd a ha i hi =>
    hA _ ((hs.only.inRow _ _).mp (State.destinations_within d hd a ha i (hs.width ▸ hi)))
  refine Op.final_reading ?_
  exact Op.keeps_bind preserves_chains (storedIn_decodeScanAs (isMarker s) hds)
    (fun _ => Op.keeps_update (g := State.endScan _) fun _ ht =>
      ⟨scanInOnly_chains.trans _ _ _ ht.only rfl, ht.pln⟩) s hs

/-- Scanlines from `YCNT` on are stored in their rows (R142). -/
theorem storedIn_decodeScans {n : Nat} {s : State} (hs : StoredIn A g s) (hy : s.ycnt.toNat + n ≤ s.height.toNat)
    (hA : ∀ y, s.ycnt.toNat ≤ y → y < s.ycnt.toNat + n → ∀ a, InRow g y a → A a) :
    StoredIn A g ((times decodeScan n).final s) := by
  induction n generalizing s with
  | zero => exact hs
  | succ n ih =>
    refine Op.final_bind (storedIn_decodeScan hs (hA _ (Nat.le_refl _) (by omega))) fun _ t e ht => ?_
    have hsucc : t.ycnt.toNat = s.ycnt.toNat + 1 := decodeScan_ycnt e ▸ ycnt_succ_toNat hy s.height.isLt
    have hheight : t.height = s.height := ht.only.geometry.2.1.trans hs.only.geometry.2.1.symm
    exact ih ht (by rw [hsucc, hheight]; omega) fun y h1 h2 => hA y (by omega) (by omega)

end Row

/-- A row of the image lies inside the planes (R22). -/
theorem inRow_lt {s : State} {y a : Nat} (hy : y < s.height.toNat) (h : InRow s y a) : a < s.planes * s.pixels := by
  obtain ⟨k, x, hk, hx, rfl⟩ := h
  have hrow : s.rowBase k y + s.width.toNat ≤ s.planes * s.pixels := of_decide_eq_true (State.rowInside_rowBase hk hy)
  exact (Nat.add_lt_add_left hx _).trans_le hrow

end Sys2Proof.Machine
end

section
/-! What the stream commands leave unchanged (O48, O49): the frame of their pseudocode, and what fault entry adds to it. -/

namespace Sys2Proof.Machine

open Sys2Proof.Spec

/-! ### Pseudocode, then at most a fault -/

/-- `t` is `u`, up to the fault that a command with word `w` may have entered (R167). -/
def Settled (w : Word) (u t : State) : Prop := t = { u with status := t.status, ecmd := t.ecmd } ∧ FaultOnly w u t

theorem settled_refl (w : Word) (u : State) : Settled w u u := ⟨rfl, .inl ⟨rfl, rfl⟩⟩

theorem settled_enterFault {u : State} (h : u.decoding = none) (f : FaultCode) (w : Word) :
    Settled w u (u.enterFault f w) := by
  rw [State.enterFault_idle h]
  exact ⟨rfl, .inr ⟨f, rfl, rfl⟩⟩

/-- A command that answers has run its pseudocode, or none of it in the fault state, and then at most entered a fault
(R150, R167, R168). -/
theorem command_settled {P : State → Prop} {w : Word} {body : Op Unit} {s t : State} (h : command w body s = .next t)
    (h0 : P s) (hb : P (body.final s)) (hd : ∀ u, P u → u.decoding = s.decoding) : ∃ u, P u ∧ Settled w u t := by
  rcases command_answers h with ⟨-, rfl⟩ | ⟨-, e⟩ | ⟨hr, f, u, e, rfl⟩
  · exact ⟨t, h0, settled_refl w t⟩
  · exact ⟨t, final_ok e ▸ hb, settled_refl w t⟩
  · have hu : P u := final_error e ▸ hb
    exact ⟨u, hu, settled_enterFault ((hd u hu).trans hr.1) f w⟩

/-- What every primitive write keeps, the pseudocode of every command but SRST has kept. -/
theorem exec_settled {R : State → State → Prop} (c : ClosedUnderWrites R)
    (hd : ∀ s t, R s t → t.decoding = s.decoding) {i : Instr} {s t : State} (h : exec i s = .next t)
    (hi : isCommand i = true) (hs : i ≠ .srst) : ∃ u, R s u ∧ Settled i.word u t := by
  obtain ⟨body, hbody, hkeeps⟩ := command_isFramed hi hs
  rw [hbody] at h
  exact command_settled h (c.refl s) (hkeeps R c s) (hd s)

/-- What follows a check starts from the same state, if the check passes. -/
theorem Op.final_check {P : State → Prop} {x : Op Unit} {p : State → Prop} [DecidablePred p] {f : FaultCode}
    {k : Unit → Op Unit} {s : State} (hx : ∀ s, x s = if p s then .ok () s else .error f s) (h0 : P s)
    (hk : p s → P ((k ()).final s)) : P ((x >>= k).final s) := by
  rw [Op.final, bind_check (hx s)]
  by_cases hp : p s
  · rw [if_pos hp]; exact hk hp
  · rw [if_neg hp]; exact h0

/-! ### `STATUS` and `ECMD` -/

theorem setErr_status_congr {s t : State} (h : t.status = s.status) (c : BitVec 4) :
    (t.setErr c).status = (s.setErr c).status := by
  rw [State.setErr_status, State.setErr_status, h]

theorem faultOnly_congr {w : Word} {s u t : State} (hs : u.status = s.status) (he : u.ecmd = s.ecmd)
    (h : FaultOnly w u t) : FaultOnly w s t := by
  rcases h with ⟨h1, h2⟩ | ⟨f, h1, h2⟩
  · exact .inl ⟨h1.trans hs, h2.trans he⟩
  · exact .inr ⟨f, h1.trans (setErr_status_congr hs _), h2⟩

/-- No pseudocode writes `ECMD`, the decode context, or a bit of `STATUS` other than `STRAT` (R24, R25). -/
structure StratOnly (s t : State) : Prop where
  status : t.status = s.status ∨ ∃ b, t.status = (s.setStrat b).status
  ecmd : t.ecmd = s.ecmd
  decoding : t.decoding = s.decoding

theorem stratOnly_chains : Chains StratOnly where
  refl _ := ⟨.inl rfl, rfl, rfl⟩
  trans s t u h k := by
    refine ⟨?_, k.ecmd.trans h.ecmd, k.decoding.trans h.decoding⟩
    rcases k.status with hk | ⟨b, hk⟩
    · rw [hk]; exact h.status
    · refine .inr ⟨b, hk.trans ?_⟩
      rcases h.status with h | ⟨c, h⟩
      · exact setStrat_status_congr h b
      · rw [setStrat_status_congr h b, State.setStrat_setStrat_status]

theorem StreamOnly.stratOnly {s t : State} (h : StreamOnly s t) : StratOnly s t := by
  rw [h]; exact ⟨.inl rfl, rfl, rfl⟩

theorem stratOnly_closedUnderWrites : ClosedUnderWrites StratOnly where
  toChains := stratOnly_chains
  getByte f s := (getByte_keeps f s).stream.stratOnly
  putByte b s := (putByte_keeps b s).stratOnly
  writeImg _ _ _ := ⟨.inl rfl, rfl, rfl⟩
  writePln _ _ _ := ⟨.inl rfl, rfl, rfl⟩
  setQuad _ _ := ⟨.inl rfl, rfl, rfl⟩
  setFloats _ _ _ _ := ⟨.inl rfl, rfl, rfl⟩
  setDimensions _ _ _ := ⟨.inl rfl, rfl, rfl⟩
  firstScan _ := ⟨.inl rfl, rfl, rfl⟩
  endScan b _ := ⟨.inr ⟨b, rfl⟩, rfl, rfl⟩

/-- A command writes `STRAT` and takes a fault, and nothing else of `STATUS` and `ECMD` changes (R24, R167). -/
theorem exec_scanFaultOnly {i : Instr} {s t : State} (h : exec i s = .next t) (hi : isCommand i = true)
    (hs : i ≠ .srst) : ScanFaultOnly i.word s t := by
  obtain ⟨u, hu, -, hfault⟩ := exec_settled stratOnly_closedUnderWrites (fun _ _ h => h.decoding) h hi hs
  rcases hu.status with hstatus | ⟨b, hstatus⟩
  · exact .inl (faultOnly_congr hstatus hu.ecmd hfault)
  · exact .inr ⟨b, faultOnly_congr hstatus hu.ecmd hfault⟩

/-! ### `STR` -/

/-- `STR` reads as before outside the bytes from the old `SPOS` up to the new one, which is not below the old. -/
structure StreamGrows (s t : State) : Prop where
  spos : s.spos.toNat ≤ t.spos.toNat
  str : ∀ a, (a < s.spos.toNat ∨ t.spos.toNat ≤ a) → t.readStr a = s.readStr a
  decoding : t.decoding = s.decoding

theorem streamGrows_refl (s : State) : StreamGrows s s := ⟨Nat.le_refl _, fun _ _ => rfl, rfl⟩

/-- `SPOS` is moved by `GetByte` and `PutByte` alone, each inside the stream, and `STR` written at `SPOS` alone (R46, R48). -/
theorem streamGrows_closedUnderWrites : ClosedUnderWrites StreamGrows where
  refl := streamGrows_refl
  trans s t u h k := ⟨h.spos.trans k.spos, fun a ha => by
    have h1 := h.spos
    have h2 := k.spos
    rw [k.str a (by omega), h.str a (by omega)], k.decoding.trans h.decoding⟩
  getByte f s := by
    by_cases hb : s.spos.toNat < s.slen.toNat
    · rw [final_ok (getByte_ok hb)]
      exact ⟨by rw [spos_succ hb s.slen.isLt]; omega, fun _ _ => rfl, rfl⟩
    · rw [final_error (getByte_error hb)]; exact streamGrows_refl s
  putByte b s := by
    by_cases hb : s.spos.toNat < s.cfg.strBytes.toNat
    · have hsucc := spos_succ hb s.cfg.strBytes.isLt
      rw [final_ok (putByte_ok hb)]
      refine ⟨by rw [State.pushByte_spos, hsucc]; omega, fun a ha => ?_, rfl⟩
      rw [State.pushByte_spos, hsucc] at ha
      rw [State.readStr_pushByte, if_neg (by omega)]
    · rw [final_error (putByte_error hb)]; exact streamGrows_refl s
  writeImg _ _ _ := ⟨Nat.le_refl _, fun _ _ => rfl, rfl⟩
  writePln _ _ _ := ⟨Nat.le_refl _, fun _ _ => rfl, rfl⟩
  setQuad _ _ := ⟨Nat.le_refl _, fun _ _ => rfl, rfl⟩
  setFloats _ _ _ _ := ⟨Nat.le_refl _, fun _ _ => rfl, rfl⟩
  setDimensions _ _ _ := ⟨Nat.le_refl _, fun _ _ => rfl, rfl⟩
  firstScan _ := ⟨Nat.le_refl _, fun _ _ => rfl, rfl⟩
  endScan _ _ := ⟨Nat.le_refl _, fun _ _ => rfl, rfl⟩

/-- A command but SRST writes `STR` from the old `SPOS` up to the new one only. -/
theorem exec_readStr {i : Instr} {s t : State} (h : exec i s = .next t) (hi : isCommand i = true) (hs : i ≠ .srst)
    (a : Nat) (ha : a < s.spos.toNat ∨ t.spos.toNat ≤ a) : t.readStr a = s.readStr a := by
  obtain ⟨u, hu, honly, -⟩ := exec_settled streamGrows_closedUnderWrites (fun _ _ h => h.decoding) h hi hs
  rw [honly] at ha ⊢
  exact hu.str a ha

/-! ### The commands that write the stream -/

theorem StreamOnly.settled {w : Word} {s u t : State} (h : StreamOnly s u) (ht : Settled w u t) :
    t = { s with str := t.str, spos := t.spos, slen := t.slen, status := t.status, ecmd := t.ecmd } ∧
      FaultOnly w s t := by
  obtain ⟨honly, hfault⟩ := ht
  refine ⟨?_, faultOnly_congr (by rw [h]) (by rw [h]) hfault⟩
  rw [h] at honly
  rw [honly]

theorem ScanOutOnly.settled {w : Word} {s u t : State} (h : ScanOutOnly s u) (ht : Settled w u t) :
    t = { s with
      str := t.str, spos := t.spos, slen := t.slen, ycnt := t.ycnt, status := t.status, ecmd := t.ecmd } := by
  have honly := ht.1
  rw [h] at honly
  rw [honly]

/-- `t` is `s` after part of a file has been written, with `PLN` written inside the planes only (R22, R128). -/
structure FileWritten (s t : State) : Prop where
  only : FileOutOnly s t
  pln : ∀ a, s.planes * s.pixels ≤ a → t.readPln a = s.readPln a

theorem fileWritten_chains : Chains FileWritten where
  refl _ := ⟨rfl, fun _ _ => rfl⟩
  trans s t u h k := ⟨fileOutOnly_chains.trans _ _ _ h.only k.only, fun a ha =>
    (k.pln a (by rw [h.only]; exact ha)).trans (h.pln a ha)⟩

theorem ScanOutOnly.fileWritten {s t : State} (h : ScanOutOnly s t) : FileWritten s t :=
  ⟨h.fileOut, fun a _ => h.readPln a⟩

theorem quantizeImage_fileWritten : Op.Keeps FileWritten quantizeImage := fun s => by
  rw [final_ok (quantizeImage_apply s)]
  exact ⟨(quantizeImage_only _ 0 s).fileOut, fun a ha => State.readPln_quantizeImage_other (Nat.le_refl _) ha⟩

theorem FileWritten.settled {w : Word} {s u t : State} (h : FileWritten s u) (ht : Settled w u t) :
    t = { s with
      str := t.str, spos := t.spos, slen := t.slen, ycnt := t.ycnt, status := t.status, ecmd := t.ecmd
      pln := t.pln } ∧ ∀ a, s.planes * s.pixels ≤ a → t.readPln a = s.readPln a := by
  have honly := ht.1
  refine ⟨?_, fun a ha => ?_⟩
  · rw [h.only] at honly
    rw [honly]
  · rw [honly]; exact h.pln a ha

theorem settled_hdrWr {s t : State} (h : exec .hdrWr s = .next t) :
    ∃ u, StreamOnly s u ∧ Settled (Instr.word .hdrWr) u t :=
  command_settled h (streamOnly_chains.refl s)
    (Op.keeps_bind streamOnly_chains (Op.keeps_reading fun z => Op.keeps_raiseIf streamOnly_chains z _)
      (fun _ => writeHeader_keeps) s) fun _ hu => by rw [hu]

theorem settled_rleEnc {k : BitVec 2} {s t : State} (h : exec (.rleEnc k) s = .next t) :
    ∃ u, StreamOnly s u ∧ Settled (Instr.word (.rleEnc k)) u t :=
  command_settled h (streamOnly_chains.refl s)
    (Op.keeps_bind streamOnly_chains (streamOnly_chains.keeps_check (checkGeom_apply _ _)) (fun _ =>
      Op.keeps_bind streamOnly_chains (streamOnly_chains.keeps_check (checkPlaneRow_apply k)) fun _ =>
        Op.keeps_reading fun y => encodePlaneRow_keeps _ _) s) fun _ hu => by rw [hu]

theorem settled_encScan {s t : State} (h : exec .encScan s = .next t) :
    ∃ u, ScanOutOnly s u ∧ Settled (Instr.word .encScan) u t :=
  command_settled h (scanOutOnly_chains.refl s)
    (Op.keeps_bind scanOutOnly_chains (scanOutOnly_chains.keeps_check (checkGeom_apply _ _)) (fun _ =>
      Op.keeps_bind scanOutOnly_chains (scanOutOnly_chains.keeps_check checkRow_apply) fun _ => encodeScan_keeps) s)
    fun _ hu => by rw [hu]

theorem settled_encImage {s t : State} (h : exec .encImage s = .next t) :
    ∃ u, FileWritten s u ∧ Settled (Instr.word .encImage) u t := by
  have hscans : ∀ n, Op.Keeps FileWritten (times encodeScan n) := fun n =>
    (Op.keeps_times scanOutOnly_chains encodeScan_keeps n).weaken fun _ _ h => h.fileWritten
  exact command_settled h (fileWritten_chains.refl s)
    (Op.keeps_bind fileWritten_chains (fileWritten_chains.keeps_check (checkGeom_apply _ _)) (fun _ =>
      Op.keeps_bind fileWritten_chains quantizeImage_fileWritten fun _ =>
        Op.keeps_bind fileWritten_chains (writeHeader_keeps.weaken fun _ _ h => h.scanOut.fileWritten) fun _ =>
          Op.keeps_bind fileWritten_chains (Op.keeps_update (g := State.firstScan) fun _ => ⟨rfl, fun _ _ => rfl⟩) fun _ =>
            Op.keeps_reading hscans) s) fun _ hu => by rw [hu.only]

/-- Settles O48: the pseudocode of each command has the frame of its parts, `STR` grows at `SPOS`, and only the loop of
IMG2PLN writes `PLN`. -/
theorem streamWriterFrame : Obligations.StreamWriterFrame := by
  unfold Obligations.StreamWriterFrame
  intro s t others
  refine ⟨?_, fun h => ?_, fun h => ?_⟩
  · rintro i (rfl | ⟨k, rfl⟩) h
    · obtain ⟨u, hu, ht⟩ := settled_hdrWr h
      obtain ⟨honly, hfault⟩ := hu.settled ht
      exact ⟨honly, hfault, exec_readStr h rfl nofun⟩
    · obtain ⟨u, hu, ht⟩ := settled_rleEnc h
      obtain ⟨honly, hfault⟩ := hu.settled ht
      exact ⟨honly, hfault, exec_readStr h rfl nofun⟩
  · obtain ⟨u, hu, ht⟩ := settled_encScan h
    exact ⟨hu.settled ht, exec_scanFaultOnly h rfl nofun, exec_readStr h rfl nofun⟩
  · obtain ⟨u, hu, ht⟩ := settled_encImage h
    obtain ⟨honly, hpln⟩ := hu.settled ht
    exact ⟨honly, exec_scanFaultOnly h rfl nofun, exec_readStr h rfl nofun, hpln⟩

/-! ### The commands that read the stream -/

theorem HeaderInOnly.settled {w : Word} {s u t : State} (h : HeaderInOnly s u) (ht : Settled w u t) :
    t = { s with spos := t.spos, width := t.width, height := t.height, status := t.status, ecmd := t.ecmd } ∧
      FaultOnly w s t := by
  obtain ⟨honly, hfault⟩ := ht
  refine ⟨?_, faultOnly_congr (by rw [h]) (by rw [h]) hfault⟩
  rw [h] at honly
  rw [honly]

theorem RowInOnly.settled {w : Word} {s u t : State} (h : RowInOnly s u) (ht : Settled w u t) :
    t = { s with spos := t.spos, pln := t.pln, status := t.status, ecmd := t.ecmd } ∧ FaultOnly w s t := by
  obtain ⟨honly, hfault⟩ := ht
  refine ⟨?_, faultOnly_congr (by rw [h]) (by rw [h]) hfault⟩
  rw [h] at honly
  rw [honly]

theorem ScanInOnly.settled {w : Word} {s u t : State} (h : ScanInOnly s u) (ht : Settled w u t) :
    t = { s with spos := t.spos, pln := t.pln, ycnt := t.ycnt, status := t.status, ecmd := t.ecmd } := by
  have honly := ht.1
  rw [h] at honly
  rw [honly]

theorem settled_hdrRd {s t : State} (h : exec .hdrRd s = .next t) :
    ∃ u, HeaderInOnly s u ∧ Settled (Instr.word .hdrRd) u t :=
  command_settled h (headerInOnly_chains.refl s) (readHeader_keeps s) fun _ hu => by rw [hu]

/-- The cells of plane row `YCNT` of plane `k` (R22). -/
def RowCells (s : State) (k a : Nat) : Prop :=
  s.rowBase k s.ycnt.toNat ≤ a ∧ a < s.rowBase k s.ycnt.toNat + s.width.toNat

/-- `t` is `s` after part of plane row `YCNT` of plane `k` has been decoded (R137). -/
structure RowRead (k : Nat) (s t : State) : Prop where
  only : RowInOnly s t
  pln : ∀ a, ¬ RowCells s k a → t.readPln a = s.readPln a

theorem settled_rleDec {k : BitVec 2} {s t : State} (h : exec (.rleDec k) s = .next t) :
    ∃ u, RowRead k.toNat s u ∧ Settled (Instr.word (.rleDec k)) u t := by
  have hstart : RowRead k.toNat s s := ⟨rfl, fun _ _ => rfl⟩
  have hrow : RowWithin (RowCells s k.toNat) s.width.toNat (some (s.rowBase k.toNat s.ycnt.toNat)) := by
    rintro a ⟨⟩ i hi
    exact ⟨Nat.le_add_right _ _, Nat.add_lt_add_left hi _⟩
  refine command_settled h hstart ?_ fun _ hu => by rw [hu.only]
  refine Op.final_check (checkGeom_apply _ _) hstart fun _ => ?_
  refine Op.final_check (checkPlaneRow_apply k) hstart fun _ => Op.final_reading ?_
  exact ⟨rleDecodeRow_keeps _ s, (storedIn_rleDecodeRow hrow s (StoredIn.refl _ s)).pln⟩

theorem settled_decScan {s t : State} (h : exec .decScan s = .next t) :
    ∃ u, StoredIn (InRow s s.ycnt.toNat) s u ∧ Settled (Instr.word .decScan) u t := by
  have hstart := StoredIn.refl (InRow s s.ycnt.toNat) s
  refine command_settled h hstart ?_ fun _ hu => by rw [hu.only]
  refine Op.final_check (checkGeom_apply _ _) hstart fun _ => ?_
  exact Op.final_check checkRow_apply hstart fun _ => storedIn_decodeScan hstart fun _ => id

/-- `t` is `s` after part of a file has been read, with `PLN` and `IMG` written inside the image of `t` only (R142). -/
structure FileRead (s t : State) : Prop where
  only : FileInOnly s t
  pln : ∀ a, t.planes * t.pixels ≤ a → t.readPln a = s.readPln a
  img : ∀ a, t.pixels * t.channels ≤ a → t.readImg a = s.readImg a

theorem HeaderInOnly.fileRead {s t : State} (h : HeaderInOnly s t) : FileRead s t :=
  ⟨h.fileIn, fun _ _ => by rw [h]; rfl, fun _ _ => by rw [h]; rfl⟩

/-- Scanlines decoded after the header are inside its image. -/
theorem FileRead.decodeScans {s g t : State} (h : HeaderInOnly s g) (ht : StoredIn (fun a => a < g.planes * g.pixels) g t) :
    FileRead s t where
  only := fileInOnly_chains.trans _ _ _ h.fileIn ht.only.fileIn
  pln a ha := by
    have hg := h.fileRead.pln a
    have hlt := ht.pln a
    rw [ht.only] at ha
    rw [hlt (Nat.not_lt.mpr ha), hg ha]
  img a _ := by rw [ht.only, h]; rfl

/-- The loop of PLN2IMG after them (R142). -/
theorem FileRead.unpackImage {s t : State} (h : FileRead s t) : FileRead s (unpackImage.final t) := by
  rw [unpackImage_final]
  have honly := unpackImage_only t.pixels 0 t
  refine ⟨fileInOnly_chains.trans _ _ _ h.only honly.fileIn, fun a ha => ?_, fun a ha => ?_⟩
  · rw [honly] at ha ⊢
    exact h.pln a ha
  · rw [honly] at ha
    rw [State.readImg_unpackImage_other (s := t) (Nat.le_refl _) ha]
    exact h.img a ha

theorem settled_decImage {s t : State} (h : exec .decImage s = .next t) :
    ∃ u, FileRead s u ∧ Settled (Instr.word .decImage) u t := by
  refine command_settled h ⟨rfl, fun _ _ => rfl, fun _ _ => rfl⟩ ?_ fun _ hu => by rw [hu.only]
  refine Op.final_bind (readHeader_keeps s).fileRead fun _ g e hread => ?_
  have hg : HeaderInOnly s g := final_ok e ▸ readHeader_keeps s
  refine Op.final_check (checkGeom_apply _ _) hread fun _ => ?_
  rw [Op.final, bind_ok (update_apply _ g)]
  have hscans := storedIn_decodeScans (n := g.height.toNat) (StoredIn.refl (fun a => a < g.planes * g.pixels) g.firstScan)
    (Nat.le_of_eq (Nat.zero_add _)) fun y _ hy a ha => inRow_lt (by simpa using hy) ha
  exact Op.final_bind (x := reading (fun s => s.height.toNat) (times decodeScan))
    (.decodeScans hg ⟨hscans.only, hscans.pln⟩) fun _ u _ hu => hu.unpackImage

theorem FileRead.settled {w : Word} {s u t : State} (h : FileRead s u) (ht : Settled w u t) :
    t = { s with
      spos := t.spos, width := t.width, height := t.height, ycnt := t.ycnt, pln := t.pln, img := t.img
      status := t.status, ecmd := t.ecmd } ∧
      (∀ a, t.planes * t.pixels ≤ a → t.readPln a = s.readPln a) ∧
      ∀ a, t.pixels * t.channels ≤ a → t.readImg a = s.readImg a := by
  have honly := ht.1
  refine ⟨?_, fun a ha => ?_, fun a ha => ?_⟩
  · rw [h.only] at honly
    rw [honly]
  · rw [honly] at ha ⊢; exact h.pln a ha
  · rw [honly] at ha ⊢; exact h.img a ha

/-- Settles O49: the pseudocode of each command has the frame of its parts, and the row decoder stores in the rows it was
given. -/
theorem streamReaderFrame : Obligations.StreamReaderFrame := by
  unfold Obligations.StreamReaderFrame
  intro s t
  refine ⟨fun h => ?_, fun k h => ?_, fun h => ?_, fun h => ?_⟩
  · obtain ⟨u, hu, ht⟩ := settled_hdrRd h
    exact hu.settled ht
  · obtain ⟨u, hu, ht⟩ := settled_rleDec h
    obtain ⟨honly, hfault⟩ := hu.only.settled ht
    refine ⟨honly, hfault, fun a ha => ?_⟩
    rw [ht.1]
    exact hu.pln a fun ⟨h1, h2⟩ => ha.elim (Nat.not_lt.mpr h1) (Nat.not_le.mpr h2)
  · obtain ⟨u, hu, ht⟩ := settled_decScan h
    exact ⟨hu.only.settled ht, exec_scanFaultOnly h rfl nofun, fun a ha => by rw [ht.1]; exact hu.pln a ha⟩
  · obtain ⟨u, hu, ht⟩ := settled_decImage h
    obtain ⟨honly, hpln, himg⟩ := hu.settled ht
    exact ⟨honly, exec_scanFaultOnly h rfl nofun, hpln, himg⟩

end Sys2Proof.Machine
end

section
/-! A scanline in closed form (R136, R139 to R141): an RLE one is a fill of the rows of its destinations, a flat one a store of
its quads, and either leaves in the kept planes what the scanline holds. -/

namespace Sys2Proof.Machine

open Sys2Proof.Spec

/-! ### Rows without a common cell -/

/-- No two rows of `w` bytes with destinations in `ds` have a cell in common. -/
def DisjointRows (w : Nat) (ds : List (Option Nat)) : Prop :=
  ds.Pairwise fun p q => ∀ d e, p = some d → q = some e → ∀ x x', x < w → x' < w → d + x ≠ e + x'

theorem State.destinations_disjoint {s : State} (hh : 0 < s.height.toNat) (y : Nat) :
    DisjointRows s.width.toNat (s.destinations y) := by
  have hne : ∀ {k k' : Nat}, k ≠ k' → ∀ d e, some (s.rowBase k y) = some d → some (s.rowBase k' y) = some e →
      ∀ x x', x < s.width.toNat → x' < s.width.toNat → d + x ≠ e + x' := by
    rintro k k' hk d e ⟨⟩ ⟨⟩ x x' hx hx' heq
    exact hk (State.rowBase_add_inj hh hx hx' heq).1
  unfold DisjointRows
  cases hr : s.rgb with
  | true =>
    simp only [State.destinations_rgb hr, List.pairwise_cons, List.forall_mem_cons, List.not_mem_nil, false_imp_iff,
      implies_true, List.Pairwise.nil, and_true]
    exact ⟨⟨hne (by decide), hne (by decide), hne (by decide)⟩, ⟨hne (by decide), hne (by decide)⟩, hne (by decide)⟩
  | false =>
    simp only [State.destinations_gray hr, List.pairwise_cons, List.forall_mem_cons, List.not_mem_nil, false_imp_iff,
      implies_true, List.Pairwise.nil, and_true, reduceCtorEq]
    exact ⟨trivial, trivial, hne Nat.zero_ne_one⟩

/-- Two scanlines of the image have no cell of `PLN` in common (R22). -/
theorem inRow_unique {s : State} {y y' a : Nat} (hy : y < s.height.toNat) (hy' : y' < s.height.toNat)
    (h : InRow s y a) (h' : InRow s y' a) : y = y' := by
  obtain ⟨k, x, -, hx, rfl⟩ := h
  obtain ⟨k', x', -, hx', e⟩ := h'
  have hdiv : ∀ {k y x : Nat}, x < s.width.toNat →
      (k * (s.width.toNat * s.height.toNat) + y * s.width.toNat + x) / s.width.toNat = s.height.toNat * k + y := by
    intro k y x hx
    rw [show k * (s.width.toNat * s.height.toNat) + y * s.width.toNat = s.width.toNat * (s.height.toNat * k + y) by ring,
      Nat.mul_add_div (Nat.zero_lt_of_lt hx), Nat.div_eq_of_lt hx, Nat.add_zero]
  have e1 := congrArg (· / s.width.toNat % s.height.toNat) e
  simp only [hdiv hx, hdiv hx', Nat.mul_add_mod, Nat.mod_eq_of_lt hy, Nat.mod_eq_of_lt hy'] at e1
  exact e1

/-! ### RLE scanlines -/

/-- Whole rows to their destinations (R141). -/
def State.fillRows : List (Option Nat) → List (List Byte) → State → State
  | d :: ds, row :: rows, s => State.fillRows ds rows (s.fillRow d 0 row)
  | [], _, s => s
  | _ :: _, [], s => s

theorem State.fillRows_only (ds : List (Option Nat)) (rows : List (List Byte)) (s : State) :
    PlanesOnly s (s.fillRows ds rows) := by
  induction ds generalizing rows s with
  | nil => cases rows <;> rfl
  | cons d ds ih =>
    cases rows with
    | nil => rfl
    | cons row rows => exact planesOnly_chains.trans _ _ _ (s.fillRow_only d 0 row) (ih rows _)

theorem State.fillRows_moveCursor (ds : List (Option Nat)) (rows : List (List Byte)) (n : Nat) (s : State) :
    (s.moveCursor n).fillRows ds rows = (s.fillRows ds rows).moveCursor n := by
  induction ds generalizing rows s with
  | nil => cases rows <;> rfl
  | cons d ds ih =>
    cases rows with
    | nil => rfl
    | cons row rows => rw [State.fillRows, State.fillRows, State.fillRow_moveCursor, ih]

/-- A row leaves every cell outside it (R136). -/
theorem State.readPln_fillRow_of_ne {dst : Option Nat} {row : List Byte} {w a : Nat} {s : State} (hrow : row.length ≤ w)
    (h : ∀ d, dst = some d → ∀ x, x < w → a ≠ d + x) : (s.fillRow dst 0 row).readPln a = s.readPln a := by
  rw [State.readPln_fillRow]
  cases dst with
  | none => rfl
  | some d =>
    by_cases hle : d + 0 ≤ a
    · have hout : w ≤ a - (d + 0) := Nat.le_of_not_lt fun hlt => h d rfl _ hlt (by omega)
      simp only [if_pos hle, List.getElem?_eq_none (hrow.trans hout), Option.getD_none]
    · simp only [if_neg hle]

theorem State.readPln_fillRows_of_ne {ds : List (Option Nat)} {rows : List (List Byte)} {w a : Nat} {s : State}
    (hrows : ∀ row ∈ rows, row.length ≤ w) (h : ∀ d, some d ∈ ds → ∀ x, x < w → a ≠ d + x) :
    (s.fillRows ds rows).readPln a = s.readPln a := by
  induction ds generalizing rows s with
  | nil => cases rows <;> rfl
  | cons e es ih =>
    cases rows with
    | nil => rfl
    | cons row rows =>
      obtain ⟨hrow, hrows⟩ := List.forall_mem_cons.mp hrows
      refine (ih hrows fun d hd => h d (List.mem_cons_of_mem e hd)).trans ?_
      exact State.readPln_fillRow_of_ne hrow fun d hd => h d (hd ▸ List.mem_cons_self)

/-- The cell at place `x` of destination `j` gets byte `x` of row `j`, as far as there is one. -/
theorem State.readPln_fillRows_at {ds : List (Option Nat)} {rows : List (List Byte)} {w j d x : Nat} {s : State}
    (hds : DisjointRows w ds) (hrows : ∀ row ∈ rows, row.length ≤ w) (hj : ds[j]? = some (some d)) (hx : x < w) :
    (s.fillRows ds rows).readPln (d + x) = ((rows[j]?).bind fun row => row[x]?).getD (s.readPln (d + x)) := by
  induction ds generalizing j rows s with
  | nil => nomatch hj
  | cons e es ih =>
    obtain ⟨hne, hes⟩ := List.pairwise_cons.mp hds
    cases rows with
    | nil => rfl
    | cons row rows =>
      obtain ⟨hrow, hrows⟩ := List.forall_mem_cons.mp hrows
      cases j with
      | zero =>
        obtain rfl : e = some d := Option.some.inj hj
        refine (State.readPln_fillRows_of_ne hrows fun d' hd' x' hx' => hne _ hd' d d' rfl rfl x x' hx hx').trans ?_
        rw [State.readPln_fillRow]
        simp
      | succ j =>
        refine (ih hes hrows hj).trans ?_
        rw [State.readPln_fillRow_of_ne hrow fun a ha x' hx' e' =>
          hne _ (List.mem_of_getElem? hj) a d ha rfl x' x hx' hx e'.symm]
        rfl

/-- Rows of readable runs, each filling its plane row (R136, R141). -/
theorem decodeRows_readable {ds : List (Option Nat)} {rows : List (List Run)} {s : State}
    (hlen : ds.length = rows.length) (hrows : ∀ rs ∈ rows, Fills s.width.toNat rs) (hn : Next s (rows.flatMap runBytes)) :
    decodeRows ds s =
      .ok () ((s.fillRows ds (rows.map runRow)).moveCursor (rows.flatMap runBytes).length) := by
  induction ds generalizing rows s with
  | nil =>
    obtain rfl := List.eq_nil_of_length_eq_zero hlen.symm
    exact congrArg _ s.moveCursor_zero.symm
  | cons d ds ih =>
    cases rows with
    | nil => nomatch hlen
    | cons rs rows =>
      obtain ⟨hfirst, hothers⟩ := List.forall_mem_cons.mp hrows
      rw [List.flatMap_cons] at hn ⊢
      obtain ⟨hrow, hrest⟩ := next_append hn
      have honly := (s.moveCursor (runBytes rs).length).fillRow_only d 0 (runRow rs)
      rw [decodeRows, bind_ok (rleDecodeRow_readable hfirst hrow), ← State.fillRow_moveCursor,
        ih (Nat.succ.inj hlen) (by rw [State.fillRow_width]; exact hothers) (honly.next.mpr hrest),
        State.fillRow_moveCursor, State.fillRows_moveCursor, State.moveCursor_moveCursor, List.length_append]
      rfl

/-! ### Flat scanlines -/

/-- The bytes of a quad in the stream (R65). -/
def quadBytes (q : Quad) : List Byte := [q.r, q.g, q.b, q.e]

/-- A flat pixel whose quad comes next in the stream (R141). -/
theorem flatPixel_whole {x y : Nat} {q : Quad} {s : State} (h : Next s (quadBytes q)) :
    flatPixel x (s.destinations y) s = .ok () ((s.storeFlat x (s.destinations y) (quadBytes q)).moveCursor 4) := by
  have hle : s.spos.toNat + 4 ≤ s.slen.toNat := h.2
  have hslice : s.strSlice s.spos.toNat 4 = quadBytes q := strSlice_of_next h
  rw [flatPixel_apply, State.destinations_length, if_pos (by omega), hslice]

/-- What the quads `qs`, from pixel `x` on, have for place `x'` of stream plane `j`. -/
def quadsGot (x : Nat) (qs : List Quad) (j x' : Nat) : Option Byte :=
  if x ≤ x' then (qs[x' - x]?).bind fun q => (quadBytes q)[j]? else none

theorem quadsGot_cons (x : Nat) (q : Quad) (qs : List Quad) (j x' : Nat) :
    quadsGot x (q :: qs) j x' = (quadsGot (x + 1) qs j x').or (pixelGot x (quadBytes q) j x') := by
  unfold quadsGot pixelGot
  rcases Nat.lt_trichotomy x x' with h | rfl | h
  · obtain ⟨n, rfl⟩ : ∃ n, x' = x + n + 1 := ⟨x' - x - 1, by omega⟩
    rw [if_pos (by omega), if_pos (by omega), if_neg (by omega), Option.or_none, Nat.add_assoc, Nat.add_sub_cancel_left,
      Nat.add_comm n, ← Nat.add_assoc, Nat.add_sub_cancel_left, Nat.add_comm 1, List.getElem?_cons_succ]
  · simp
  · rw [if_neg (by omega), if_neg (by omega), if_neg (by omega)]
    rfl

theorem RowInOnly.geometry {s t : State} (h : RowInOnly s t) :
    t.width = s.width ∧ t.height = s.height ∧ keptPlanes t = keptPlanes s := by
  rw [h]; exact ⟨rfl, rfl, rfl⟩

/-- What a row gets second is over what it gets first. -/
theorem rowGot_trans {got got' : Nat → Nat → Option Byte} {y : Nat} {s t u : State} (h : RowGot got y s t)
    (hst : RowInOnly s t) (h' : RowGot got' y t u) : RowGot (fun j x => (got' j x).or (got j x)) y s u := by
  obtain ⟨hw, hh, hkept⟩ := hst.geometry
  intro k j x hk hx
  have h1 := h k j x hk hx
  have h2 := h' k j x (hkept ▸ hk) (hw ▸ hx)
  rw [hw, hh] at h2
  refine h2.trans ?_
  simp only [h1]
  cases got' j x <;> rfl

/-- The quads of a flat scanline, from pixel `x` on (R141). -/
theorem flatPixels_readable {y x : Nat} {qs : List Quad} {s : State} (hh : 0 < s.height.toNat)
    (hx : x + qs.length ≤ s.width.toNat) (hn : Next s (qs.flatMap quadBytes)) :
    ∃ t, forUp (fun x => flatPixel x (s.destinations y)) qs.length x s = .ok () t ∧
      PlanesOnly (s.moveCursor (qs.flatMap quadBytes).length) t ∧ RowGot (quadsGot x qs) y s t := by
  induction qs generalizing x s with
  | nil =>
    refine ⟨s, rfl, ?_, fun k j x' _ _ => ?_⟩
    · exact s.moveCursor_zero.symm ▸ planesOnly_chains.refl s
    · show s.readPln _ = (quadsGot x [] j x').getD (s.readPln _)
      simp [quadsGot]
  | cons q qs ih =>
    rw [List.flatMap_cons] at hn ⊢
    rw [List.length_cons] at hx
    obtain ⟨hpixel, hrest⟩ := next_append hn
    have hfirst := flatPixel_whole (x := x) (y := y) hpixel
    have honly := s.storeFlat_only x (s.destinations y) (quadBytes q)
    have hgot := State.storeFlat_rowGot hh (by omega : x < s.width.toNat) y (quadBytes q)
    generalize s.storeFlat x (s.destinations y) (quadBytes q) = u at hfirst honly hgot
    have hmoved : PlanesOnly (s.moveCursor 4) (u.moveCursor 4) := congrArg (State.moveCursor 4) honly
    have hwidth : (u.moveCursor 4).width = s.width := by rw [honly]; rfl
    have hheight : (u.moveCursor 4).height = s.height := by rw [honly]; rfl
    have hds : (u.moveCursor 4).destinations y = s.destinations y := by rw [honly]; rfl
    obtain ⟨t, ht, htonly, htgot⟩ := ih (x := x + 1) (hheight ▸ hh) (by rw [hwidth]; omega) (hmoved.next.mpr hrest)
    rw [hds] at ht
    refine ⟨t, by rw [List.length_cons, forUp_succ, bind_ok hfirst, ht], ?_, ?_⟩
    · have hall := congrArg (State.moveCursor (qs.flatMap quadBytes).length) hmoved
      rw [List.length_append, ← State.moveCursor_moveCursor]
      exact planesOnly_chains.trans _ _ _ hall htonly
    · have hrow : RowInOnly s (u.moveCursor 4) := by rw [honly]; rfl
      rw [funext fun j => funext (quadsGot_cons x q qs j)]
      exact rowGot_trans (t := u.moveCursor 4) hgot hrow htgot

/-! ### What a scanline leaves in the planes -/

/-- A scanline of width `w` has `w` bytes of each plane. -/
theorem scan_plane_length {w : Nat} {sc : Scan} (h : sc.Readable w) (j : Nat) : (sc.plane j).length = w := by
  cases sc with
  | rle r g b e =>
    have hfills := h.2
    match j with
    | 0 => exact (hfills r (by simp)).2
    | 1 => exact (hfills g (by simp)).2
    | 2 => exact (hfills b (by simp)).2
    | _ + 3 => exact (hfills e (by simp)).2
  | flat qs =>
    match j with
    | 0 | 1 | 2 | _ + 3 => exact (List.length_map _).trans h.1

/-- The bytes a scanline has for the kept planes. -/
def scanGot (sc : Scan) (j x : Nat) : Option Byte := (sc.plane j)[x]?

theorem keptPlanes_lt {s : State} {k j : Nat} (h : (keptPlanes s)[k]? = some j) : k < s.planes ∧ j < 4 := by
  unfold keptPlanes at h
  unfold State.planes
  cases hr : s.rgb with
  | true =>
    rw [hr, if_pos rfl] at h
    match k, h with
    | 0, rfl | 1, rfl | 2, rfl | 3, rfl => decide
  | false =>
    rw [hr, if_neg Bool.false_ne_true] at h
    match k, h with
    | 0, rfl | 1, rfl => decide

theorem rowGot_congr {got got' : Nat → Nat → Option Byte} {y : Nat} {s t : State}
    (e : ∀ j, j < 4 → ∀ x, got' j x = got j x) (h : RowGot got y s t) : RowGot got' y s t := fun k j x hk hx => by
  rw [e j (keptPlanes_lt hk).2 x]
  exact h k j x hk hx

theorem scanGot_rle (r g b e : List Run) (j : Nat) (hj : j < 4) (x : Nat) :
    scanGot (.rle r g b e) j x = (([r, g, b, e].map runRow)[j]?).bind fun row => row[x]? := by
  match j, hj with
  | 0, _ | 1, _ | 2, _ | 3, _ => rfl

theorem scanGot_flat (qs : List Quad) (j : Nat) (hj : j < 4) (x : Nat) :
    scanGot (.flat qs) j x = quadsGot 0 qs j x := by
  have hplane : ∀ f : Quad → Byte, (∀ q, (quadBytes q)[j]? = some (f q)) → (qs.map f)[x]? = quadsGot 0 qs j x := by
    intro f hf
    rw [List.getElem?_map, quadsGot, if_pos (Nat.zero_le x), Nat.sub_zero]
    cases qs[x]? with
    | none => rfl
    | some q => exact (hf q).symm
  match j, hj with
  | 0, _ | 1, _ | 2, _ | 3, _ => exact hplane _ fun _ => rfl

/-- Whole rows leave in the kept planes what they hold (R140). -/
theorem State.fillRows_rowGot {s : State} {rows : List (List Byte)} (hh : 0 < s.height.toNat)
    (hrows : ∀ row ∈ rows, row.length ≤ s.width.toNat) (y : Nat) :
    RowGot (fun j x => (rows[j]?).bind fun row => row[x]?) y s (s.fillRows (s.destinations y) rows) :=
  fun _ _ _ hk hx => State.readPln_fillRows_at (State.destinations_disjoint hh y) hrows (State.destinations_kept hk y) hx

/-- A readable scanline in its own form (R141). -/
theorem decodeScanAs_readable {sc : Scan} {s : State} (hh : 0 < s.height.toNat) (hsc : sc.Readable s.width.toNat)
    (hn : Next s (sc.bytes s.width.toNat)) (y : Nat) :
    ∃ t, decodeScanAs sc.isRle (s.destinations y) s = .ok () t ∧
      PlanesOnly (s.moveCursor (sc.bytes s.width.toNat).length) t ∧ RowGot (scanGot sc) y s t := by
  cases sc with
  | rle r g b e =>
    have hbytes : (Scan.rle r g b e).bytes s.width.toNat =
        marker s.width.toNat ++ [r, g, b, e].flatMap runBytes := by simp [Scan.bytes]
    rw [hbytes] at hn ⊢
    obtain ⟨hmark, hrows⟩ := next_append hn
    have hskip : skipMarker s = .ok () (s.moveCursor (marker s.width.toNat).length) := skipMarker_ok hmark.2
    have hdec := decodeRows_readable (ds := s.destinations y) (rows := [r, g, b, e]) (s := s.moveCursor _)
      (s.destinations_length y) hsc.2 hrows
    refine ⟨_, (bind_ok hskip).trans hdec, ?_, ?_⟩
    · rw [List.length_append, ← State.moveCursor_moveCursor]
      exact congrArg (State.moveCursor _) (State.fillRows_only _ _ _)
    · refine rowGot_congr (scanGot_rle r g b e) ?_
      rw [State.fillRows_moveCursor]
      refine State.fillRows_rowGot hh (fun row hrow => ?_) y
      obtain ⟨rs, hrs, rfl⟩ := List.mem_map.mp hrow
      exact Nat.le_of_eq (hsc.2 rs hrs).2
  | flat qs =>
    obtain ⟨t, ht, honly, hgot⟩ := flatPixels_readable (y := y) (x := 0) (qs := qs) hh (by rw [Nat.zero_add, hsc.1]) hn
    rw [hsc.1] at ht
    exact ⟨t, ht, honly, rowGot_congr (scanGot_flat qs) hgot⟩

/-- The marker test tells the form of a readable scanline (R72 (d), R139). -/
theorem isMarker_readable {sc : Scan} {s : State} (hw : 0 < s.width.toNat) (hsc : sc.Readable s.width.toNat)
    (hn : Next s (sc.bytes s.width.toNat)) : isMarker s = sc.isRle := by
  cases sc with
  | rle r g b e =>
    have hmark : Next s (marker s.width.toNat) := by
      simp only [Scan.bytes, List.append_assoc] at hn
      exact (next_append hn).1
    have hle := hsc.1
    have hq := nextQuad_of_next hmark
    refine (isMarker_iff s).mpr ⟨hmark.2, ?_⟩
    rw [hq]
    refine ⟨⟨rfl, rfl⟩, ?_⟩
    simp only [BitVec.toNat_ofNat]
    omega
  | flat qs =>
    obtain ⟨hlen, hfirst⟩ := hsc
    cases qs with
    | nil => rw [← hlen] at hw; exact absurd hw (Nat.lt_irrefl 0)
    | cons q qs =>
      have hq := nextQuad_of_next (next_append (as := quadBytes q) (bs := qs.flatMap quadBytes) hn).1
      refine Bool.eq_false_iff.mpr fun hm => ?_
      obtain ⟨-, ⟨hr, hg⟩, hbe⟩ := (isMarker_iff s).mp hm
      rw [hq] at hr hg hbe
      exact hfirst q rfl ⟨hr, hg, hbe⟩

/-- A readable scanline decoded (R141). -/
theorem decodeScan_readable {sc : Scan} {s : State} (hw : 0 < s.width.toNat) (hh : 0 < s.height.toNat)
    (hsc : sc.Readable s.width.toNat) (hn : Next s (sc.bytes s.width.toNat)) :
    ∃ t, decodeScan s = .ok () t ∧
      t = { s with
        pln := t.pln
        spos := s.spos + BitVec.ofNat 32 (sc.bytes s.width.toNat).length
        ycnt := s.ycnt + 1#32
        status := (s.setStrat sc.isRle).status } ∧
      RowGot (scanGot sc) s.ycnt.toNat s t := by
  obtain ⟨t, ht, honly, hgot⟩ := decodeScanAs_readable hh hsc hn s.ycnt.toNat
  refine ⟨t.endScan sc.isRle, ?_, congrArg (State.endScan sc.isRle) honly, hgot⟩
  rw [decodeScan, reading_apply, isMarker_readable hw hsc hn, bind_ok ht]
  rfl

theorem ScanInOnly.keptPlanes {s t : State} (h : ScanInOnly s t) : keptPlanes t = keptPlanes s := by
  rw [h]; rfl

/-- Bytes got for every place of the kept planes are what the planes hold. -/
theorem rowsStored_of_rowGot {sc : Scan} {y : Nat} {s t : State} (hsc : sc.Readable s.width.toNat)
    (h : RowGot (scanGot sc) y s t) (ht : ScanInOnly s t) : RowsStored sc y t := by
  obtain ⟨hw, hh, -⟩ := ht.geometry
  intro k j x hk hx
  rw [ht.keptPlanes] at hk
  rw [hw] at hx
  have hgot := h k j x hk hx
  have hsome : scanGot sc j x = some _ := List.getElem?_eq_getElem (by rw [scan_plane_length hsc]; exact hx)
  rw [hsome] at hgot
  rw [hw, hh, hgot]
  exact hsome.symm

/-- Scanlines stored elsewhere leave a stored scanline as it is. -/
theorem rowsStored_congr {sc : Scan} {y : Nat} {s t : State} (h : RowsStored sc y s) (ht : ScanInOnly s t)
    (hp : ∀ a, InRow s y a → t.readPln a = s.readPln a) : RowsStored sc y t := by
  obtain ⟨hw, hh, -⟩ := ht.geometry
  intro k j x hk hx
  rw [ht.keptPlanes] at hk
  rw [hw] at hx
  rw [hw, hh, hp _ ⟨k, x, (keptPlanes_lt hk).1, hx, rfl⟩]
  exact h k j x hk hx

end Sys2Proof.Machine
end

section
/-! DEC_IMAGE over a file (O38): the header in any spelling, then scanlines in either form, each stored in its own rows. -/

namespace Sys2Proof.Machine

open Sys2Proof.Spec

/-! ### The scanlines of a file -/

/-- The bytes of scanlines of width `w`. -/
def scansBytes (w : Nat) (scs : List Scan) : List Byte := scs.flatMap (Scan.bytes w)

theorem scansBytes_cons (w : Nat) (sc : Scan) (scs : List Scan) :
    scansBytes w (sc :: scs) = sc.bytes w ++ scansBytes w scs := List.flatMap_cons

/-- `STATUS` after scanlines: `STRAT` is of the last of them (R24, R142). -/
def scansStatus (scs : List Scan) (s : State) : Word :=
  scs.getLast?.elim s.status fun last => (s.setStrat last.isRle).status

/-- `t` is `s` after the scanlines `scs` have been decoded (R142). -/
structure Decoded (scs : List Scan) (s t : State) : Prop where
  only : t = { s with
    pln := t.pln
    spos := s.spos + BitVec.ofNat 32 (scansBytes s.width.toNat scs).length
    ycnt := s.ycnt + BitVec.ofNat 32 scs.length
    status := scansStatus scs s }
  rows : ∀ i sc, scs[i]? = some sc → RowsStored sc (s.ycnt.toNat + i) t

theorem decoded_nil (s : State) : Decoded [] s s where
  only := by
    show s = { s with spos := s.spos + 0#32, ycnt := s.ycnt + 0#32 }
    rw [BitVec.add_zero, BitVec.add_zero]
  rows := nofun

theorem scansStatus_cons {sc : Scan} {scs : List Scan} {s t : State}
    (h : t.status = (s.setStrat sc.isRle).status) : scansStatus (sc :: scs) s = scansStatus scs t := by
  unfold scansStatus
  rw [List.getLast?_cons]
  cases scs.getLast? with
  | none => exact h.symm
  | some last =>
    show (s.setStrat last.isRle).status = (t.setStrat last.isRle).status
    rw [setStrat_status_congr h, State.setStrat_setStrat_status]

/-- Readable scanlines of the image, decoded from `YCNT` on (R142). -/
theorem decodeScans_readable {scs : List Scan} {s : State} (hw : 0 < s.width.toNat)
    (hy : s.ycnt.toNat + scs.length ≤ s.height.toNat) (hscs : ∀ sc ∈ scs, sc.Readable s.width.toNat)
    (hn : Next s (scansBytes s.width.toNat scs)) :
    ∃ t, times decodeScan scs.length s = .ok () t ∧ Decoded scs s t := by
  induction scs generalizing s with
  | nil => exact ⟨s, rfl, decoded_nil s⟩
  | cons sc scs ih =>
    obtain ⟨hsc, hothers⟩ := List.forall_mem_cons.mp hscs
    rw [scansBytes_cons] at hn
    rw [List.length_cons] at hy
    obtain ⟨hscan, hrest⟩ := next_append hn
    obtain ⟨t, ht, honly, hgot⟩ := decodeScan_readable hw (by omega) hsc hscan
    have hst : ScanInOnly s t := by rw [honly]; rfl
    obtain ⟨hwidth, hheight, -⟩ := hst.geometry
    have hyt : t.ycnt.toNat = s.ycnt.toNat + 1 := decodeScan_ycnt ht ▸ ycnt_succ_toNat hy s.height.isLt
    have hnt : Next t (scansBytes t.width.toNat scs) := by rw [honly]; exact hrest
    have hyn : t.ycnt.toNat + scs.length ≤ t.height.toNat := by rw [hyt, hheight]; omega
    obtain ⟨u, hu, htu⟩ := ih (hwidth ▸ hw) hyn (by rw [hwidth]; exact hothers) hnt
    refine ⟨u, by rw [List.length_cons, times_succ, bind_ok ht, hu], ?_, fun i sc' hi => ?_⟩
    · have hspos : t.spos = s.spos + BitVec.ofNat 32 (sc.bytes s.width.toNat).length := by rw [honly]
      have hycnt : t.ycnt = s.ycnt + 1#32 := by rw [honly]
      have hall := htu.only
      rw [hwidth, hspos, hycnt, ← scansStatus_cons (sc := sc) (s := s) (by rw [honly])] at hall
      rw [scansBytes_cons, List.length_append, BitVec.ofNat_add, ← BitVec.add_assoc, List.length_cons,
        Nat.add_comm scs.length, BitVec.ofNat_add, ← BitVec.add_assoc]
      refine hall.trans ?_
      rw [honly]
    · cases i with
      | zero =>
        obtain rfl : sc = sc' := Option.some.inj hi
        have hlater := storedIn_decodeScans (StoredIn.refl (fun a => ¬ InRow t s.ycnt.toNat a) t) hyn
          fun y hlo hhi a ha ha' => absurd (inRow_unique (by omega) (by omega) ha ha') (by omega)
        rw [final_ok hu] at hlater
        exact rowsStored_congr (rowsStored_of_rowGot hsc hgot hst) hlater.only fun a ha => hlater.pln a (not_not.mpr ha)
      | succ i =>
        have hrow := htu.rows i sc' hi
        rwa [hyt, Nat.add_assoc, Nat.add_comm 1] at hrow

/-! ### DEC_IMAGE -/

theorem isHeader_bounds {bs : List Byte} {h w : Nat} (hbs : IsHeader bs h w) :
    (BitVec.ofNat 32 h).toNat = h ∧ (BitVec.ofNat 32 w).toNat = w ∧ 0 < w := by
  obtain ⟨-, -, -, -, ⟨-, -, -, -, -, hh1, hh2, hw1, hw2⟩, -⟩ := hbs
  simp only [BitVec.toNat_ofNat]
  omega

/-- The state behind the header of a file (R103, R142). -/
def State.afterHeader (n h w : Nat) (s : State) : State :=
  (s.moveCursor n).setDimensions (BitVec.ofNat 32 h) (BitVec.ofNat 32 w)

/-- A file whose header names a geometry that does not fit (R142, R166). -/
theorem exec_decImage_configFault {head : List Byte} {h w : Nat} {s : State} (hr : s.Ready)
    (hhead : IsHeader head h w) (hn : Next s head)
    (hg : ¬ GeomFits s.planes true (s.afterHeader head.length h w)) :
    exec .decImage s =
      .next ((s.afterHeader head.length h w).enterFault .configFault (Instr.word .decImage)) := by
  refine (command_ready hr).trans ?_
  have hcheck : checkGeom State.planes true (s.afterHeader head.length h w) =
      .error .configFault (s.afterHeader head.length h w) := if_neg fun hfit => hg ((State.geomFits_iff _ _ _).mp hfit)
  have hheader : readHeader s = .ok () (s.afterHeader head.length h w) := readHeader_isHeader hhead hn
  rw [bind_ok hheader, bind_error hcheck, settle_error]

/-- A file whose header names a geometry that fits, and whose scanlines are readable (R142). -/
theorem exec_decImage_decoded {head : List Byte} {h w : Nat} {scs : List Scan} {s : State} (hr : s.Ready)
    (hhead : IsHeader head h w) (hg : GeomFits s.planes true (s.afterHeader head.length h w)) (hlen : scs.length = h)
    (hscs : ∀ sc ∈ scs, sc.Readable w) (hn : Next s (head ++ scansBytes w scs)) :
    ∃ u, exec .decImage s = .next (unpackImage.final u) ∧
      Decoded scs (s.afterHeader head.length h w).firstScan u := by
  obtain ⟨hh, hw, hwpos⟩ := isHeader_bounds hhead
  obtain ⟨hnhead, hnscans⟩ := next_append hn
  have hheader : readHeader s = .ok () (s.afterHeader head.length h w) := readHeader_isHeader hhead hnhead
  have hfit := (State.geomFits_iff _ _ _).mpr hg
  have hwidth : (s.afterHeader head.length h w).firstScan.width.toNat = w := hw
  have hheight : (s.afterHeader head.length h w).height.toNat = h := hh
  obtain ⟨u, hu, hdec⟩ := decodeScans_readable (scs := scs) (s := (s.afterHeader head.length h w).firstScan)
    (by rw [hwidth]; exact hwpos) (by rw [State.firstScan_height, hheight, hlen]; exact Nat.le_of_eq (Nat.zero_add h))
    (by rw [hwidth]; exact hscs) (by rw [hwidth]; exact hnscans)
  rw [hlen.trans hheight.symm] at hu
  exact ⟨u, exec_decImage hr hheader hfit hu, hdec⟩

/-- Settles O38: the header, then scanlines each stored in its own rows, then the loop of PLN2IMG; what lies outside the image
stays by the frame of DEC_IMAGE. -/
theorem decImageReadsTheFile : Obligations.DecImageReadsTheFile := by
  unfold Obligations.DecImageReadsTheFile
  refine ⟨rfl, ?_⟩
  intro s head h w hr hhead g
  refine ⟨fun scs last hgeom hlen hlast hscs hn => ?_, fun hgeom hn => exec_decImage_configFault hr hhead hn hgeom⟩
  obtain ⟨hh, hw, -⟩ := isHeader_bounds hhead
  obtain ⟨u, hexec, honly, hrows⟩ := exec_decImage_decoded hr hhead hgeom hlen hscs hn
  have himage : ImageOnly u (unpackImage.final u) := by rw [unpackImage_final]; exact unpackImage_only _ 0 u
  have hunpacked := unpackImage_unpacked u
  obtain ⟨-, -, hpln, himg⟩ := (streamReaderFrame s (unpackImage.final u)).2.2.2 hexec
  generalize unpackImage.final u = t at *
  have ht : t = { g with
      pln := t.pln
      img := t.img
      spos := s.spos + BitVec.ofNat 32 (head ++ scs.flatMap (Scan.bytes w)).length
      ycnt := BitVec.ofNat 32 h
      status := (s.setStrat last.isRle).status } := by
    have hstatus : scansStatus scs (s.afterHeader head.length h w).firstScan = (s.setStrat last.isRle).status := by
      rw [scansStatus, hlast]; rfl
    have hwidth : (s.afterHeader head.length h w).firstScan.width.toNat = w := hw
    have hp : t.pln = u.pln := by rw [himage]
    rw [hstatus, hlen, hwidth, State.firstScan_ycnt, BitVec.zero_add] at honly
    rw [hp, List.length_append, BitVec.ofNat_add, ← BitVec.add_assoc]
    unfold ImageOnly at himage
    rw [honly] at himage
    exact himage
  refine ⟨t, hexec, ht, fun y sc hy => ?_, hunpacked, fun a ha => hpln a ?_, fun a ha => himg a ?_⟩
  · have hrow := hrows y sc hy
    rw [himage]
    rwa [State.firstScan_ycnt, BitVec.toNat_ofNat, Nat.zero_mod, Nat.zero_add] at hrow
  · rw [ht]
    show s.planes * ((BitVec.ofNat 32 w).toNat * (BitVec.ofNat 32 h).toNat) ≤ a
    rwa [hw, hh]
  · rw [ht]
    show (BitVec.ofNat 32 w).toNat * (BitVec.ofNat 32 h).toNat * s.channels ≤ a
    rwa [hw, hh]

end Sys2Proof.Machine
end

section
/-! The plane buffer commands (O22 to O25, O47): each is its checks and then plain writes that never raise. What the writes
leave in the memories is said once for the state they make; what a command does and what it leaves unchanged both follow. -/

namespace Sys2Proof.Machine

open Sys2Proof.Spec

/-! ### Checks and then plain writes -/

/-- From `s`, command `i` makes the state `t` if `p` holds, and otherwise raises ConfigFault and does nothing else. -/
structure Checked (i : Instr) (p : Prop) (s t : State) : Prop where
  passes : p → exec i s = .next t
  fails : ¬ p → ConfigFaults i s

/-- Pseudocode whose checks come to `p`, on a machine ready for a command (R150, R166). -/
theorem checked_of_body {i : Instr} {body : Op Unit} {p : Prop} {s t : State} (hi : exec i s = command i.word body s)
    (hr : s.Ready) (hok : p → body s = .ok () t) (hno : ¬ p → body s = .error .configFault s) : Checked i p s t where
  passes hp := by rw [hi, command_ready hr, hok hp, settle_ok]
  fails hp := configFaults_of_body hi hr (hno hp)

/-- `CheckGeom` as the only check (R111, R114, R115). -/
theorem checked_of_geometry {i : Instr} {planes : State → Nat} {useImg : Bool} {k : Unit → Op Unit} {s t : State}
    (hi : exec i s = command i.word (checkGeom planes useImg >>= k) s) (hr : s.Ready) (hk : k () s = .ok () t) :
    Checked i (GeomFits (planes s) useImg s) s t := by
  refine checked_of_body hi hr (fun hg => ?_) fun hg => ?_
  · rw [bind_check (checkGeom_apply _ _ s), if_pos ((State.geomFits_iff _ _ s).mpr hg), hk]
  · rw [bind_check (checkGeom_apply _ _ s), if_neg fun h => hg ((State.geomFits_iff _ _ s).mp h)]

/-- `CheckGeom` and then the check of the pixel, as the insertions have them (R112, R113). -/
theorem checked_of_pixel {i : Instr} {planes : Nat} {f : State → State} {s : State}
    (hi : exec i s = command i.word (checkGeom (fun _ => planes) false >>= fun _ => checkPixel >>= fun _ => update f) s)
    (hr : s.Ready) :
    Checked i (GeomFits planes false s ∧ s.px.toNat < s.width.toNat ∧ s.py.toNat < s.height.toNat) s (f s) := by
  have hgeom := State.geomFits_iff planes false s
  refine checked_of_body hi hr (fun ⟨hg, hp⟩ => ?_) fun hno => ?_
  · rw [bind_check (checkGeom_apply _ _ s), if_pos (hgeom.mpr hg), bind_check (checkPixel_apply s), if_pos hp, update_apply]
  · rw [bind_check (checkGeom_apply _ _ s)]
    by_cases hg : s.geomFits planes false = true
    · rw [if_pos hg, bind_check (checkPixel_apply s), if_neg fun hp => hno ⟨hgeom.mp hg, hp⟩]
    · rw [if_neg hg]

/-- Whatever holds of the state before and of the state the writes make, holds of the command's answer up to a fault (R167,
R168). -/
theorem checked_settled {P : State → Prop} {i : Instr} {p : Prop} {s u t : State} (h : exec i s = .next t)
    (hi : isCommand i = true) (hs : i ≠ .srst) (hc : s.Ready → Checked i p s u) (h0 : P s) (hu : P u) :
    ∃ v, P v ∧ Settled i.word v t := by
  obtain ⟨body, hbody, -⟩ := command_isFramed hi hs
  have hready : t = s ∨ s.Ready := by
    rcases command_answers ((hbody s).symm.trans h) with ⟨-, ht⟩ | ⟨hr, -⟩ | ⟨hr, -⟩
    · exact .inl ht
    · exact .inr hr
    · exact .inr hr
  rcases hready with rfl | hr
  · exact ⟨t, h0, settled_refl _ t⟩
  · by_cases hp : p
    · obtain rfl : u = t := Host.Outcome.next.inj (((hc hr).passes hp).symm.trans h)
      exact ⟨u, hu, settled_refl _ u⟩
    · have hfault : ConfigFaults i s := (hc hr).fails hp
      obtain rfl := Host.Outcome.next.inj (hfault.symm.trans h)
      exact ⟨s, h0, rfl, .inr ⟨.configFault, rfl, rfl⟩⟩

/-! ### PLN_CLR -/

/-- The state after the loop of PLN_CLR (R111). -/
def State.cleared (s : State) : State := State.iterate (fun a => State.writePln a 0#8) (s.planes * s.pixels) 0 s

theorem State.cleared_only (s : State) : PlanesOnly s s.cleared :=
  State.iterate_induct (P := PlanesOnly s) (fun _ _ _ _ h => planesOnly_chains.trans _ _ _ h rfl) rfl

theorem State.readPln_clears (n a : Nat) (s : State) :
    (State.iterate (fun j => State.writePln j 0#8) n 0 s).readPln a = if a < n then 0#8 else s.readPln a := by
  induction n with
  | zero => rfl
  | succ n ih =>
    rw [State.iterate_succ, State.readPln_writePln, Nat.zero_add, ih]
    by_cases h : a = n
    · rw [if_pos h, if_pos (by omega)]
    · rw [if_neg h]
      exact if_congr (by omega) rfl rfl

theorem checked_plnClr {s : State} (hr : s.Ready) : Checked .plnClr (GeomFits s.planes false s) s s.cleared :=
  checked_of_geometry rfl hr (forUp_update _ _ _ _)

/-- Settles O22: the loop of PLN_CLR writes 0 to each cell of the planes once. -/
theorem plnClrZeroesThePlanes : Obligations.PlnClrZeroesThePlanes := by
  unfold Obligations.PlnClrZeroesThePlanes
  refine ⟨rfl, fun s hr => ⟨fun hg => ?_, (checked_plnClr hr).fails⟩⟩
  exact ⟨s.cleared, (checked_plnClr hr).passes hg, s.cleared_only, fun a => s.readPln_clears _ a⟩

/-! ### INS_RGBE and INS_RE -/

/-- The writes of INS_RGBE (R112). -/
def State.insertRgbe (s : State) : State := (s.setQuad s.packRgb).storeQuad s.pixelIndex s.packRgb

/-- The writes of INS_RE (R113). -/
def State.insertRe (s : State) : State := (s.setQuad s.packGray).storePair s.pixelIndex s.packGray

/-- A quad is read back from its four cells, which are different ones in an image that has pixels (R22). -/
theorem State.readPln_storeQuad_cells {s : State} (h : 0 < s.pixels) (p : Nat) (q : Quad) :
    (s.storeQuad p q).readPln p = q.r ∧ (s.storeQuad p q).readPln (s.pixels + p) = q.g ∧
      (s.storeQuad p q).readPln (2 * s.pixels + p) = q.b ∧ (s.storeQuad p q).readPln (3 * s.pixels + p) = q.e := by
  simp only [State.readPln_storeQuad]
  refine ⟨?_, ?_, ?_, if_pos trivial⟩
  · rw [if_neg (by omega), if_neg (by omega), if_neg (by omega), if_pos trivial]
  · rw [if_neg (by omega), if_neg (by omega), if_pos trivial]
  · rw [if_neg (by omega), if_pos trivial]

theorem State.readPln_storePair_cells {s : State} (h : 0 < s.pixels) (p : Nat) (q : Quad) :
    (s.storePair p q).readPln p = q.r ∧ (s.storePair p q).readPln (s.pixels + p) = q.e := by
  simp only [State.readPln_storePair]
  exact ⟨by rw [if_neg (by omega), if_pos trivial], if_pos trivial⟩

theorem State.readPln_storeQuad_other {s : State} {p a : Nat} (q : Quad)
    (h : a ∉ [p, s.pixels + p, 2 * s.pixels + p, 3 * s.pixels + p]) : (s.storeQuad p q).readPln a = s.readPln a := by
  simp only [List.mem_cons, List.not_mem_nil, or_false, not_or] at h
  obtain ⟨hr, hg, hb, he⟩ := h
  rw [State.readPln_storeQuad, if_neg he, if_neg hb, if_neg hg, if_neg hr]

theorem State.readPln_storePair_other {s : State} {p a : Nat} (q : Quad) (h : a ∉ [p, s.pixels + p]) :
    (s.storePair p q).readPln a = s.readPln a := by
  simp only [List.mem_cons, List.not_mem_nil, or_false, not_or] at h
  obtain ⟨hr, he⟩ := h
  rw [State.readPln_storePair, if_neg he, if_neg hr]

theorem checked_insRgbe {s : State} (hr : s.Ready) :
    Checked .insRgbe (GeomFits 4 false s ∧ s.px.toNat < s.width.toNat ∧ s.py.toNat < s.height.toNat) s s.insertRgbe :=
  checked_of_pixel rfl hr

theorem checked_insRe {s : State} (hr : s.Ready) :
    Checked .insRe (GeomFits 2 false s ∧ s.px.toNat < s.width.toNat ∧ s.py.toNat < s.height.toNat) s s.insertRe :=
  checked_of_pixel rfl hr

/-- Settles O23: the pixel lies inside, so the image has pixels and the bytes stored go to different cells. -/
theorem insertCommandsStoreOnePixel : Obligations.InsertCommandsStoreOnePixel := by
  unfold Obligations.InsertCommandsStoreOnePixel
  refine ⟨rfl, rfl, fun s hr => ?_⟩
  have hpixels (h : s.px.toNat < s.width.toNat ∧ s.py.toNat < s.height.toNat) : 0 < s.pixels :=
    Nat.zero_lt_of_lt (State.pixelIndex_lt h.1 h.2)
  refine ⟨fun hin => ?_, (checked_insRgbe hr).fails, fun hin => ?_, (checked_insRe hr).fails⟩
  · obtain ⟨hR, hG, hB, hE⟩ :=
      State.readPln_storeQuad_cells (s := s.setQuad s.packRgb) (hpixels hin.2) s.pixelIndex s.packRgb
    exact ⟨s.insertRgbe, (checked_insRgbe hr).passes hin, rfl, hR, hG, hB, hE, fun _ => State.readPln_storeQuad_other _⟩
  · obtain ⟨hR, hE⟩ :=
      State.readPln_storePair_cells (s := s.setQuad s.packGray) (hpixels hin.2) s.pixelIndex s.packGray
    exact ⟨s.insertRe, (checked_insRe hr).passes hin, rfl, hR, hE, fun _ => State.readPln_storePair_other _⟩

/-! ### IMG2PLN and PLN2IMG -/

theorem checked_img2pln {s : State} (hr : s.Ready) : Checked .img2pln (GeomFits s.planes true s) s s.quantized :=
  checked_of_geometry rfl hr (quantizeImage_apply s)

theorem State.readPln_quantized_other {s : State} {a : Nat} (h : s.planes * s.pixels ≤ a) :
    s.quantized.readPln a = s.readPln a := State.readPln_quantizeImage_other (Nat.le_refl _) h

/-- Settles O24: the loop of IMG2PLN, whose pixels own different cells inside the planes. -/
theorem img2plnQuantizesTheImage : Obligations.Img2plnQuantizesTheImage := by
  unfold Obligations.Img2plnQuantizesTheImage
  refine ⟨rfl, fun s hr => ⟨fun hg => ?_, (checked_img2pln hr).fails⟩⟩
  exact ⟨s.quantized, (checked_img2pln hr).passes hg, s.quantized_only, s.quantized_imageQuantized,
    fun _ => State.readPln_quantized_other⟩

theorem checked_pln2img {s : State} (hr : s.Ready) :
    Checked .pln2img (GeomFits s.planes true s) s (unpackImage.final s) :=
  checked_of_geometry rfl hr ((unpackImage_apply s).trans (by rw [unpackImage_final]))

theorem unpackImage_final_only (s : State) : ImageOnly s (unpackImage.final s) := by
  rw [unpackImage_final]
  exact unpackImage_only _ 0 s

theorem readImg_unpackImage_final_other {s : State} {a : Nat} (h : s.pixels * s.channels ≤ a) :
    (unpackImage.final s).readImg a = s.readImg a := by
  rw [unpackImage_final]
  exact State.readImg_unpackImage_other (Nat.le_refl _) h

/-- Settles O25: the loop of PLN2IMG, whose pixels own different words inside the image. -/
theorem pln2imgUnpacksThePlanes : Obligations.Pln2imgUnpacksThePlanes := by
  unfold Obligations.Pln2imgUnpacksThePlanes
  refine ⟨rfl, fun s hr => ⟨fun hg => ?_, (checked_pln2img hr).fails⟩⟩
  exact ⟨_, (checked_pln2img hr).passes hg, unpackImage_final_only s, unpackImage_unpacked s,
    fun _ => readImg_unpackImage_final_other⟩

/-! ### The frame -/

theorem Settled.readPln {w : Word} {u t : State} (h : Settled w u t) (a : Nat) : t.readPln a = u.readPln a := by
  rw [h.1]; rfl

theorem Settled.readImg {w : Word} {u t : State} (h : Settled w u t) (a : Nat) : t.readImg a = u.readImg a := by
  rw [h.1]; rfl

/-- `t` is `s` after writes to cells of the planes (R22). -/
structure PlanesWritten (s t : State) : Prop where
  only : PlanesOnly s t
  pln : ∀ a, s.planes * s.pixels ≤ a → t.readPln a = s.readPln a

/-- `t` is `s` after writes to `Q` and to the cells `cells` of `PLN`. -/
structure PixelInserted (cells : List Nat) (s t : State) : Prop where
  only : t = { s with q := t.q, pln := t.pln }
  pln : ∀ a, a ∉ cells → t.readPln a = s.readPln a

/-- `t` is `s` after writes to words of the image (R21). -/
structure ImageWritten (s t : State) : Prop where
  only : ImageOnly s t
  img : ∀ a, s.pixels * s.channels ≤ a → t.readImg a = s.readImg a

theorem PlanesWritten.settled {w : Word} {s u t : State} (h : PlanesWritten s u) (ht : Settled w u t) :
    t = { s with pln := t.pln, status := t.status, ecmd := t.ecmd } ∧ FaultOnly w s t ∧
      ∀ a, s.planes * s.pixels ≤ a → t.readPln a = s.readPln a := by
  obtain ⟨honly, hfault⟩ := id ht
  rw [h.only] at honly hfault
  exact ⟨by rw [honly], hfault, fun a ha => (ht.readPln a).trans (h.pln a ha)⟩

theorem PixelInserted.settled {cells : List Nat} {w : Word} {s u t : State} (h : PixelInserted cells s u)
    (ht : Settled w u t) :
    t = { s with q := t.q, pln := t.pln, status := t.status, ecmd := t.ecmd } ∧ FaultOnly w s t ∧
      ∀ a, a ∉ cells → t.readPln a = s.readPln a := by
  obtain ⟨honly, hfault⟩ := id ht
  rw [h.only] at honly hfault
  exact ⟨by rw [honly], hfault, fun a ha => (ht.readPln a).trans (h.pln a ha)⟩

theorem ImageWritten.settled {w : Word} {s u t : State} (h : ImageWritten s u) (ht : Settled w u t) :
    t = { s with img := t.img, status := t.status, ecmd := t.ecmd } ∧ FaultOnly w s t ∧
      ∀ a, s.pixels * s.channels ≤ a → t.readImg a = s.readImg a := by
  obtain ⟨honly, hfault⟩ := id ht
  rw [h.only] at honly hfault
  exact ⟨by rw [honly], hfault, fun a ha => (ht.readImg a).trans (h.img a ha)⟩

theorem State.cleared_written (s : State) : PlanesWritten s s.cleared :=
  ⟨s.cleared_only, fun a ha => (s.readPln_clears _ a).trans (if_neg (Nat.not_lt.mpr ha))⟩

theorem State.quantized_written (s : State) : PlanesWritten s s.quantized :=
  ⟨s.quantized_only, fun _ => State.readPln_quantized_other⟩

/-- Settles O47: each command makes the state of its writes, or none of them, and then at most takes a fault. -/
theorem planeCommandFrame : Obligations.PlaneCommandFrame := by
  unfold Obligations.PlaneCommandFrame
  intro s t n p
  have hplanes : PlanesWritten s s := ⟨rfl, fun _ _ => rfl⟩
  refine ⟨?_, fun h => ?_, fun h => ?_, fun h => ?_⟩
  · rintro i (rfl | rfl) h
    · obtain ⟨u, hu, ht⟩ := checked_settled h rfl nofun checked_plnClr hplanes s.cleared_written
      exact hu.settled ht
    · obtain ⟨u, hu, ht⟩ := checked_settled h rfl nofun checked_img2pln hplanes s.quantized_written
      exact hu.settled ht
  · obtain ⟨u, hu, ht⟩ := checked_settled (P := PixelInserted [p, n + p, 2 * n + p, 3 * n + p] s) h rfl nofun
      checked_insRgbe ⟨rfl, fun _ _ => rfl⟩ ⟨rfl, fun _ => State.readPln_storeQuad_other _⟩
    exact hu.settled ht
  · obtain ⟨u, hu, ht⟩ := checked_settled (P := PixelInserted [p, n + p] s) h rfl nofun
      checked_insRe ⟨rfl, fun _ _ => rfl⟩ ⟨rfl, fun _ => State.readPln_storePair_other _⟩
    exact hu.settled ht
  · obtain ⟨u, hu, ht⟩ := checked_settled (P := ImageWritten s) h rfl nofun checked_pln2img ⟨rfl, fun _ _ => rfl⟩
      ⟨unpackImage_final_only s, fun _ => readImg_unpackImage_final_other⟩
    exact hu.settled ht

end Sys2Proof.Machine
end

section
/-! The row encoder as commands: RLE_ENC (O31) and ENC_SCAN (O32) are two checks and then one sequence of `PutByte`s, and
RLE_DEC gives back a row that RLE_ENC has written (O40). -/

namespace Sys2Proof.Machine

open Sys2Proof.Spec

/-! ### Checks and then bytes -/

/-- `CheckGeom` and the check of the row behind it, both passed (R122, R127, R166). -/
theorem bind_rowChecks {c : Op Unit} {p : Prop} [Decidable p] {s : State}
    (hc : c s = if p then .ok () s else .error .configFault s) (h : GeomFits s.planes false s ∧ p) (k : Unit → Op Unit) :
    (checkGeom State.planes false >>= fun _ => c >>= k) s = k () s := by
  rw [bind_check (checkGeom_apply _ _ s), if_pos ((State.geomFits_iff _ _ s).mpr h.1), bind_check hc, if_pos h.2]

/-- The first of the two checks that fails raises ConfigFault (R122, R127, R166). -/
theorem bind_rowChecks_fail {c : Op Unit} {p : Prop} [Decidable p] {s : State}
    (hc : c s = if p then .ok () s else .error .configFault s) (h : ¬ (GeomFits s.planes false s ∧ p))
    (k : Unit → Op Unit) : (checkGeom State.planes false >>= fun _ => c >>= k) s = .error .configFault s := by
  rw [bind_check (checkGeom_apply _ _ s)]
  by_cases hg : s.geomFits s.planes false = true
  · rw [if_pos hg, bind_check hc, if_neg fun hp => h ⟨(State.geomFits_iff _ _ s).mp hg, hp⟩]
  · rw [if_neg hg]

/-! ### RLE_ENC -/

/-- A row that has bytes is not encoded to nothing (R123). -/
theorem rleEncodeRow_ne_nil {row : List Byte} (h : 0 < row.length) : rleEncodeRow row ≠ [] := by
  obtain ⟨-, -, hmin⟩ := encodedRowIsGreedyRuns row
  exact List.ne_nil_of_length_pos (by omega)

/-- The encoded row of a geometry that fits has bytes (R166). -/
theorem encodedPlaneRow_ne_nil {s : State} (h : GeomFits s.planes false s) (k y : Nat) :
    rleEncodeRow (planeRow s k y) ≠ [] :=
  rleEncodeRow_ne_nil ((planeRow_length s k y).symm ▸ State.width_pos ((State.geomFits_iff _ _ s).mpr h))

/-- RLE_ENC with its checks passed is `PutByte` of the encoded row (R122). -/
theorem exec_rleEnc {k : BitVec 2} {s : State} (hr : s.Ready) (hc : PlaneRowChecks k s) :
    exec (.rleEnc k) s =
      settle (Instr.word (.rleEnc k)) (putBytes (rleEncodeRow (planeRow s k.toNat s.ycnt.toNat)) s) := by
  refine (command_ready hr).trans (congrArg (settle _) ?_)
  rw [bind_rowChecks (checkPlaneRow_apply k s) hc, ← State.planeRow_eq]
  rfl

/-- Settles O31: the row of a geometry that fits is not empty, so RLE_ENC with its checks passed is `PutByte` of at least
one byte. -/
theorem rleEncWritesThePlaneRow : Obligations.RleEncWritesThePlaneRow := by
  unfold Obligations.RleEncWritesThePlaneRow
  refine fun s k hr => ⟨by revert k; decide, fun hc => ?_, fun hc => ?_⟩
  · exact writes_of_body ((exec_rleEnc hr hc).trans (command_ready hr).symm) hr (encodedPlaneRow_ne_nil hc.1 _ _)
      (bind_update_id _ s).symm
  · exact configFaults_of_body rfl hr (bind_rowChecks_fail (checkPlaneRow_apply k s) hc _)

/-! ### ENC_SCAN -/

/-- ENC_SCAN with its checks passed is one scanline (R127). -/
theorem exec_encScan {s : State} (hr : s.Ready) (hc : ScanChecks s) :
    exec .encScan s = settle (Instr.word .encScan) (encodeScan s) :=
  (command_ready hr).trans (congrArg (settle _) (bind_rowChecks (checkRow_apply s) hc _))

/-- Settles O32: the scanline, in either form, is one sequence of `PutByte`s, and it ends behind the last of them. -/
theorem encScanWritesTheScanline : Obligations.EncScanWritesTheScanline := by
  unfold Obligations.EncScanWritesTheScanline
  refine ⟨rfl, fun s hr => ⟨fun hc => ?_, fun hc => ?_⟩⟩
  · have hw := State.width_pos ((State.geomFits_iff _ _ s).mpr hc.1)
    refine writes_of_body ((exec_encScan hr hc).trans (command_ready hr).symm) hr (scanBytes_ne_nil hw _) ?_
    rw [encodeScan_eq, State.useRle_eq]
    rfl
  · exact configFaults_of_body rfl hr (bind_rowChecks_fail (checkRow_apply s) hc _)

/-! ### A plane row written and read back -/

theorem StreamOnly.ready {s t : State} (h : StreamOnly s t) : t.Ready ↔ s.Ready := by
  unfold StreamOnly at h; rw [h]; rfl

theorem StreamOnly.planeRowChecks {s t : State} (h : StreamOnly s t) (k : BitVec 2) :
    PlaneRowChecks k t ↔ PlaneRowChecks k s := by
  unfold StreamOnly at h; rw [h]; rfl

/-- A whole row stored in plane row `y` of plane `j` is that plane row (R22). -/
theorem planeRow_fillRow {row : List Byte} {s : State} (h : row.length = s.width.toNat) (j y : Nat) :
    planeRow (s.fillRow (some (s.rowBase j y)) 0 row) j y = row := by
  have honly := s.fillRow_only (some (s.rowBase j y)) 0 row
  generalize ht : s.fillRow (some (s.rowBase j y)) 0 row = t at honly ⊢
  have hbase : t.rowBase j y = s.rowBase j y := by rw [honly]; rfl
  have hwidth : t.width = s.width := by rw [honly]
  have hcell {x : Nat} (hx : x < row.length) : t.readPln (t.rowBase j y + x) = row[x] := by
    rw [hbase, ← ht, State.readPln_fillRow]
    simp [hx]
  refine List.ext_getElem (by rw [planeRow_length, hwidth, h]) fun x _ hx => ?_
  simp only [planeRow, List.getElem_map, List.getElem_range]
  exact hcell hx

/-- RLE_DEC over an encoded row that comes next in the stream stores the row and reads exactly its bytes (R136, R137). -/
theorem exec_rleDec_encoded {k : BitVec 2} {row : List Byte} {s : State} (hr : s.Ready) (hc : PlaneRowChecks k s)
    (hw : row.length = s.width.toNat) (hn : Next s (rleEncodeRow row)) :
    exec (.rleDec k) s = .next ((s.moveCursor (rleEncodeRow row).length).fillRow
      (some (s.rowBase k.toNat s.ycnt.toNat)) 0 row) := by
  obtain ⟨hgeom, hk, hy⟩ := hc
  rw [exec_rleDec hr ((State.geomFits_iff _ _ s).mpr hgeom) hk hy, rleDecodeRow_rleEncodeRow hw hn, settle_ok]

/-- Settles O40: what RLE_ENC wrote comes next once the cursor is back, the checks depend on nothing it changed, and the
row decoder reads back every encoded row. -/
theorem planeRowRoundTrip : Obligations.PlaneRowRoundTrip := by
  unfold Obligations.PlaneRowRoundTrip
  intro s k hr hc hroom
  obtain ⟨hgeom, -, hy⟩ := id hc
  have hbs := encodedPlaneRow_ne_nil hgeom k.toNat s.ycnt.toNat
  have hlen := planeRow_length s k.toNat s.ycnt.toNat
  have henc := exec_rleEnc hr hc
  generalize planeRow s k.toNat s.ycnt.toNat = row at hroom hbs hlen henc ⊢
  have hwrote := wrote_pushBytes hroom
  have hnext := hwrote.next hbs
  have hstream : StreamOnly s { s.pushBytes (rleEncodeRow row) with spos := s.spos } :=
    streamOnly_chains.trans _ _ _ (s.pushBytes_only _) rfl
  refine ⟨_, by rw [henc, putBytes_room hroom, settle_ok], hwrote.err.trans hr.2, fun j hj => ?_⟩
  rw [hwrote.spos]
  generalize hv : ({ s.pushBytes (rleEncodeRow row) with spos := s.spos } : State) = v at hnext hstream ⊢
  have hready := hstream.ready.mpr hr
  have hchecks := (hstream.planeRowChecks j).mpr ⟨hgeom, hj, hy⟩
  have hwidth : row.length = v.width.toNat := by rw [hlen, hstream]
  have hycnt : v.ycnt = s.ycnt := by rw [hstream]
  refine ⟨_, exec_rleDec_encoded hready hchecks hwidth hnext, ?_, ?_, ?_⟩
  · refine (State.err_congr ?_).trans hready.2
    rw [State.fillRow_only]
    rfl
  · rw [hycnt]
    exact planeRow_fillRow (s := v.moveCursor _) hwidth j.toNat s.ycnt.toNat
  · rw [State.fillRow_spos, ← hv]
    rfl

end Sys2Proof.Machine
end

section
/-! Where the row decoder stops (O35, R136, R165), and the marker test in the spec's words (O36, R139): the runs before the
stop are read and stored, then one control byte, or what the stream holds of its run, and nothing more. -/

namespace Sys2Proof.Machine

open Sys2Proof.Spec

/-! ### The marker test -/

/-- Settles O36: the marker test is a test of the next four bytes, and two bytes are below 65536. -/
theorem markerTestReadsTheWidth : Obligations.MarkerTestReadsTheWidth := by
  unfold Obligations.MarkerTestReadsTheWidth
  intro s
  have hiff := isMarker_iff s
  simp only [State.nextQuad, and_assoc] at hiff
  refine ⟨hiff, fun hw => Bool.eq_false_iff.mpr fun hm => ?_⟩
  obtain ⟨-, -, -, hvalue⟩ := hiff.mp hm
  omega

/-! ### A stream that may end -/

theorem holdsUpTo_formatFault (s : State) (bs : List Byte) : HoldsUpTo .formatFault s bs = Next s bs := if_neg nofun

theorem holdsUpTo_truncatedData (s : State) (bs : List Byte) : HoldsUpTo .truncatedData s bs = Rest s bs := if_pos rfl

/-- What a reader reads before its fault comes next part by part, if the cursor is inside the stream. -/
theorem holdsUpTo_append {f : FaultCode} {as bs : List Byte} {s : State} (h0 : as ≠ [] ∨ s.spos.toNat ≤ s.slen.toNat)
    (h : HoldsUpTo f s (as ++ bs)) : Next s as ∧ HoldsUpTo f (s.moveCursor as.length) bs := by
  unfold HoldsUpTo at h ⊢
  by_cases hf : f = .truncatedData
  · rw [if_pos hf] at h ⊢
    obtain ⟨hbytes, hlen⟩ := h
    have hinside : s.spos.toNat + (as ++ bs).length ≤ s.slen.toNat := by
      rcases h0 with h0 | h0
      · have := List.length_pos_iff.mpr h0
        rw [List.length_append] at hlen ⊢
        omega
      · omega
    obtain ⟨has, hbs, -⟩ := next_append ⟨hbytes, hinside⟩
    rw [List.length_append] at hlen hinside
    have hpos : (s.moveCursor as.length).spos.toNat = s.spos.toNat + as.length :=
      State.moveCursor_spos (b := s.slen.toNat) (by omega) s.slen.isLt
    refine ⟨has, hbs, ?_⟩
    rw [hpos, State.moveCursor_slen]
    omega
  · rw [if_neg hf] at h ⊢
    exact next_append h

theorem PlanesOnly.holdsUpTo {s t : State} (h : PlanesOnly s t) {f : FaultCode} {bs : List Byte} :
    HoldsUpTo f t bs ↔ HoldsUpTo f s bs := by
  unfold PlanesOnly at h; rw [h]; rfl

/-! ### The run that stops -/

theorem controlRun_repeat {c : Byte} (h : 129 ≤ c.toNat) (dst : Option Nat) (done : Nat) :
    controlRun c dst done = repeatRun (c.toNat - 128) dst done := by
  have h0 : c ≠ 0#8 := fun e => by rw [e] at h; exact absurd h (by decide)
  rw [controlRun, if_neg h0, if_pos h, runLength, if_pos h]

theorem controlRun_dump {c : Byte} (h0 : 0 < c.toNat) (h : ¬ 129 ≤ c.toNat) (dst : Option Nat) (done : Nat) :
    controlRun c dst done = literalRun c.toNat dst done := by
  have hne : c ≠ 0#8 := fun e => by rw [e] at h0; exact absurd h0 (by decide)
  rw [controlRun, if_neg hne, if_neg h, runLength, if_neg h]

/-- A run that stops behind its control byte, with `lits` stored and the bytes `rest` read. -/
theorem decodeRun_error {dst : Option Nat} {done : Nat} {c : Byte} {rest lits : List Byte} {f : FaultCode} {s : State}
    (hn : Next s [c])
    (h : controlRun c dst done (s.moveCursor 1) =
      .error f (((s.moveCursor 1).fillRow dst done lits).moveCursor rest.length)) :
    decodeRun dst done s = .error f ((s.fillRow dst done lits).moveCursor (c :: rest).length) := by
  have hc : s.readStr s.spos.toNat = c := hn.1 0 Nat.one_pos
  rw [decodeRun_control hn.2, hc, bind_error h, State.fillRow_moveCursor, State.moveCursor_moveCursor, List.length_cons,
    Nat.add_comm 1]

/-- The run in which the row decoder stops (R136, R165). -/
theorem decodeRun_stop {dst : Option Nat} {done : Nat} {f : FaultCode} {tail lits : List Byte} {s : State}
    (hstop : RowStop (s.width.toNat - done) f tail lits) (h : HoldsUpTo f s tail) :
    decodeRun dst done s = .error f ((s.fillRow dst done lits).moveCursor tail.length) := by
  have hcontrol : ∀ {c : Byte} {rest : List Byte}, HoldsUpTo f s (c :: rest) →
      Next s [c] ∧ HoldsUpTo f (s.moveCursor 1) rest := fun {c _} h =>
    holdsUpTo_append (as := [c]) (.inl (List.cons_ne_nil _ _)) h
  cases hstop with
  | controlZero =>
    refine decodeRun_error (rest := []) (hcontrol h).1 ?_
    rw [State.fillRow_nil]
    exact congrArg _ (State.moveCursor_zero _).symm
  | overlong c hlong =>
    refine decodeRun_error (rest := []) (hcontrol h).1 ?_
    rw [State.fillRow_nil, List.length_nil, State.moveCursor_zero]
    by_cases hc : 129 ≤ c.toNat
    · rw [if_pos hc] at hlong
      exact (congrFun (controlRun_repeat hc dst done) _).trans (repeatRun_overlong (s := s.moveCursor 1) hlong)
    · rw [if_neg hc] at hlong
      exact (congrFun (controlRun_dump (Nat.zero_lt_of_lt hlong) hc dst done) _).trans
        (literalRun_overlong (s := s.moveCursor 1) hlong)
  | atControl =>
    have hend : 0 = s.slen.toNat - s.spos.toNat := (holdsUpTo_truncatedData s [] ▸ h).2
    rw [decodeRun_end (by omega), State.fillRow_nil]
    exact congrArg _ s.moveCursor_zero.symm
  | atValue c hc hfits =>
    obtain ⟨hn, hrest⟩ := hcontrol h
    rw [holdsUpTo_truncatedData] at hrest
    refine decodeRun_error (rest := []) hn ?_
    rw [controlRun_repeat hc]
    exact repeatRun_truncated (s := s.moveCursor 1) hfits hrest
  | inDump c _ hlt hc hfits =>
    obtain ⟨hn, hrest⟩ := hcontrol h
    rw [holdsUpTo_truncatedData] at hrest
    refine decodeRun_error hn ?_
    rw [controlRun_dump (Nat.zero_lt_of_lt hlt) (by omega)]
    exact literalRun_truncated (s := s.moveCursor 1) hfits hlt hrest

/-! ### The row that stops -/

theorem run_bytes_ne_nil (r : Run) : r.bytes ≠ [] := by
  cases r <;> exact List.cons_ne_nil _ _

/-- The loop of `RleDecodeRow` over runs that leave the row short, then the run that stops (R136, R165). -/
theorem decodeRuns_stop {dst : Option Nat} {rs : List Run} {fuel done : Nat} {f : FaultCode} {tail lits : List Byte}
    {s : State} (hrs : ∀ r ∈ rs, r.Readable) (hw : done + (runRow rs).length < s.width.toNat)
    (hf : s.width.toNat ≤ done + fuel) (hstop : RowStop (s.width.toNat - (done + (runRow rs).length)) f tail lits)
    (h : HoldsUpTo f s (runBytes rs ++ tail)) :
    decodeRuns dst fuel done s =
      .error f ((s.fillRow dst done (runRow rs ++ lits)).moveCursor (runBytes rs ++ tail).length) := by
  induction rs generalizing fuel done s with
  | nil =>
    obtain ⟨fuel, rfl⟩ : ∃ n, fuel = n + 1 := ⟨fuel - 1, by omega⟩
    have hrun : decodeRun dst done s = .error f ((s.fillRow dst done lits).moveCursor tail.length) :=
      decodeRun_stop hstop h
    rw [decodeRuns_succ (show done < s.width.toNat from hw), bind_error hrun]
    rfl
  | cons r rs ih =>
    obtain ⟨hr, hrs⟩ := List.forall_mem_cons.mp hrs
    have hpos := readable_pos hr
    rw [runRow_cons, List.length_append, ← Nat.add_assoc] at hw hstop
    rw [runBytes_cons, List.append_assoc] at h
    obtain ⟨hfirst, hnext⟩ := holdsUpTo_append (.inl (run_bytes_ne_nil r)) h
    obtain ⟨fuel, rfl⟩ : ∃ n, fuel = n + 1 := ⟨fuel - 1, by omega⟩
    have honly := (s.moveCursor r.bytes.length).fillRow_only dst done r.row
    have hwidth : ((s.moveCursor r.bytes.length).fillRow dst done r.row).width = s.width := State.fillRow_width _ _ _ _
    rw [decodeRuns_succ (by omega), bind_ok (decodeRun_readable hr (by omega) hfirst), ← State.fillRow_moveCursor,
      ih hrs (by rw [hwidth]; exact hw) (by rw [hwidth]; omega) (by rw [hwidth]; exact hstop)
        (honly.holdsUpTo.mpr hnext),
      State.fillRow_moveCursor, State.fillRow_moveCursor, State.moveCursor_moveCursor, ← State.fillRow_append,
      ← List.append_assoc, ← runRow_cons, ← List.length_append, ← List.append_assoc, ← runBytes_cons]

/-- `RleDecodeRow` on a row that stops (R136, R165). -/
theorem rleDecodeRow_stop {dst : Option Nat} {rs : List Run} {f : FaultCode} {tail lits : List Byte} {s : State}
    (hrs : ∀ r ∈ rs, r.Readable) (hw : (runRow rs).length < s.width.toNat)
    (hstop : RowStop (s.width.toNat - (runRow rs).length) f tail lits) (h : HoldsUpTo f s (runBytes rs ++ tail)) :
    rleDecodeRow dst s =
      .error f ((s.fillRow dst 0 (runRow rs ++ lits)).moveCursor (runBytes rs ++ tail).length) :=
  decodeRuns_stop hrs (by omega) (Nat.le_add_left _ 0) (by rwa [Nat.zero_add]) h

/-- Settles O35: with its checks passed RLE_DEC is `RleDecodeRow`, which stops in the run after the readable ones. -/
theorem rleDecFaultsInTheRow : Obligations.RleDecFaultsInTheRow := by
  unfold Obligations.RleDecFaultsInTheRow
  intro s k rs f tail lits hr hchecks hrs hw hstop h
  obtain ⟨hgeom, hk, hy⟩ := hchecks
  have hexec := exec_rleDec hr ((State.geomFits_iff _ _ s).mpr hgeom) hk hy
  rw [rleDecodeRow_stop hrs hw hstop h, settle_error] at hexec
  refine ⟨_, ?_, ?_, hexec⟩
  · exact congrArg (State.moveCursor _) (s.fillRow_only _ 0 _)
  · exact s.readPln_fillRow _ 0 _

end Sys2Proof.Machine
end

section
/-! A scanline that stops (O37, R136, R139 to R141): an RLE one in the plane row after some whole ones, a flat one in its last
quad; either leaves in the kept planes the bytes that were read. -/

namespace Sys2Proof.Machine

open Sys2Proof.Spec

/-! ### RLE scanlines -/

theorem rowStop_lits_le {left : Nat} {f : FaultCode} {tail lits : List Byte} (h : RowStop left f tail lits) :
    lits.length ≤ left := by
  cases h with
  | inDump c _ hlt _ hfits => exact (Nat.le_of_lt hlt).trans hfits
  | controlZero | overlong | atControl | atValue => exact Nat.zero_le _

theorem PlanesOnly.moveCursor {s t : State} (h : PlanesOnly s t) (n : Nat) :
    PlanesOnly (s.moveCursor n) (t.moveCursor n) := congrArg (State.moveCursor n) h

theorem PlanesOnly.rowIn_moveCursor {n : Nat} {s t : State} (h : PlanesOnly (s.moveCursor n) t) : RowInOnly s t := by
  rw [h]; rfl

/-- Rows of readable runs, each filling its plane row, then the row that stops (R136, R141). -/
theorem decodeRows_stop {ds : List (Option Nat)} {rows : List (List Run)} {rs : List Run} {f : FaultCode}
    {tail lits : List Byte} {s : State} (hlen : rows.length < ds.length) (hrows : ∀ r ∈ rows, Fills s.width.toNat r)
    (hrs : ∀ r ∈ rs, r.Readable) (hw : (runRow rs).length < s.width.toNat)
    (hstop : RowStop (s.width.toNat - (runRow rs).length) f tail lits) (hn : Next s (rows.flatMap runBytes))
    (h : HoldsUpTo f (s.moveCursor (rows.flatMap runBytes).length) (runBytes rs ++ tail)) :
    decodeRows ds s =
      .error f ((s.fillRows ds (rows.map runRow ++ [runRow rs ++ lits])).moveCursor
        (rows.flatMap runBytes ++ (runBytes rs ++ tail)).length) := by
  induction ds generalizing rows s with
  | nil => exact absurd hlen (Nat.not_lt_zero _)
  | cons d ds ih =>
    cases rows with
    | nil =>
      rw [List.flatMap_nil, List.length_nil, State.moveCursor_zero] at h
      rw [decodeRows, bind_error (rleDecodeRow_stop hrs hw hstop h)]
      cases ds <;> rfl
    | cons row rows =>
      obtain ⟨hfirst, hothers⟩ := List.forall_mem_cons.mp hrows
      rw [List.flatMap_cons] at hn h ⊢
      obtain ⟨hrow, hrest⟩ := next_append hn
      rw [List.length_append, ← State.moveCursor_moveCursor] at h
      have honly := (s.moveCursor (runBytes row).length).fillRow_only d 0 (runRow row)
      have hwidth : ((s.moveCursor (runBytes row).length).fillRow d 0 (runRow row)).width = s.width :=
        State.fillRow_width _ _ _ _
      rw [decodeRows, bind_ok (rleDecodeRow_readable hfirst hrow), ← State.fillRow_moveCursor,
        ih (Nat.lt_of_succ_lt_succ hlen) (by rw [hwidth]; exact hothers) (by rw [hwidth]; exact hw)
          (by rw [hwidth]; exact hstop) (honly.next.mpr hrest)
          ((honly.moveCursor _).holdsUpTo.mpr h),
        State.fillRow_moveCursor, State.fillRows_moveCursor, State.moveCursor_moveCursor, ← List.length_append,
        ← List.append_assoc]
      rfl

/-- Four bytes that are the marker of the width pass the marker test (R67, R139). -/
theorem isMarker_marker {s : State} (hw : s.width.toNat ≤ 65535) (hn : Next s (marker s.width.toNat)) :
    isMarker s = true := by
  refine (isMarker_iff s).mpr ⟨hn.2, ?_⟩
  rw [nextQuad_of_next hn]
  refine ⟨⟨rfl, rfl⟩, ?_⟩
  simp only [BitVec.toNat_ofNat]
  omega

/-- `t` is `s` with the bytes `bs` read, and with what `got` has of them in the kept planes of scanline `YCNT` (R140). -/
structure ScanlineGot (bs : List Byte) (got : Nat → Nat → Option Byte) (s t : State) : Prop where
  only : PlanesOnly (s.moveCursor bs.length) t
  row : RowGot got s.ycnt.toNat s t

/-- Its marker, whole plane rows, and the row that stops (R141). -/
theorem decodeScanRle_stop {rows : List (List Run)} {rs : List Run} {f : FaultCode} {tail lits : List Byte} {s : State}
    (hh : 0 < s.height.toNat) (hlen : rows.length < 4) (hrows : ∀ r ∈ rows, Fills s.width.toNat r)
    (hrs : ∀ r ∈ rs, r.Readable) (hw : (runRow rs).length < s.width.toNat)
    (hstop : RowStop (s.width.toNat - (runRow rs).length) f tail lits)
    (hn : Next s (marker s.width.toNat ++ rows.flatMap runBytes))
    (h : HoldsUpTo f (s.moveCursor (marker s.width.toNat ++ rows.flatMap runBytes).length) (runBytes rs ++ tail)) :
    ∃ t, decodeScanRle (s.destinations s.ycnt.toNat) s = .error f t ∧
      ScanlineGot (marker s.width.toNat ++ rows.flatMap runBytes ++ (runBytes rs ++ tail))
        (fun j x => ((rows.map runRow ++ [runRow rs ++ lits])[j]?).bind fun row => row[x]?) s t := by
  obtain ⟨hmark, hnrows⟩ := next_append hn
  have hskip : skipMarker s = .ok () (s.moveCursor (marker s.width.toNat).length) := skipMarker_ok hmark.2
  rw [List.length_append, ← State.moveCursor_moveCursor] at h
  have hdec := decodeRows_stop (ds := s.destinations s.ycnt.toNat) (s := s.moveCursor _)
    (by rwa [State.destinations_length]) hrows hrs hw hstop hnrows h
  refine ⟨_, (bind_ok hskip).trans hdec, ?_, ?_⟩
  · rw [List.append_assoc, List.length_append, ← State.moveCursor_moveCursor]
    exact congrArg (State.moveCursor _) (State.fillRows_only _ _ _)
  · rw [State.fillRows_moveCursor]
    refine State.fillRows_rowGot hh (fun row hrow => ?_) _
    rcases List.mem_append.mp hrow with hrow | hrow
    · obtain ⟨r, hr, rfl⟩ := List.mem_map.mp hrow
      exact Nat.le_of_eq (hrows r hr).2
    · have hlits := rowStop_lits_le hstop
      rw [List.mem_singleton.mp hrow, List.length_append]
      omega

/-! ### Flat scanlines -/

theorem exists_quadBytes_append {bs : List Byte} (h : 4 ≤ bs.length) : ∃ q bs', bs = quadBytes q ++ bs' :=
  match bs, h with
  | r :: g :: b :: e :: bs', _ => ⟨⟨r, g, b, e⟩, bs', rfl⟩
  | [], h | [_], h | [_, _], h | [_, _, _], h => by simp at h

/-- What the bytes `bs` of flat pixels, from pixel `x` on, have for place `x'` of stream plane `j`. -/
def bytesGot (x : Nat) (bs : List Byte) (j x' : Nat) : Option Byte := if x ≤ x' then bs[4 * (x' - x) + j]? else none

theorem bytesGot_of_short {bs : List Byte} (h : bs.length < 4) (x j x' : Nat) :
    bytesGot x bs j x' = pixelGot x bs j x' := by
  unfold bytesGot pixelGot
  rcases Nat.lt_trichotomy x x' with hx | rfl | hx
  · rw [if_pos (by omega), if_neg (by omega), List.getElem?_eq_none (by omega)]
  · rw [if_pos (Nat.le_refl x), if_pos rfl, Nat.sub_self, Nat.mul_zero, Nat.zero_add]
  · rw [if_neg (by omega), if_neg (by omega)]

theorem bytesGot_quad (x : Nat) (q : Quad) (bs : List Byte) (j : Nat) (hj : j < 4) (x' : Nat) :
    bytesGot x (quadBytes q ++ bs) j x' = (bytesGot (x + 1) bs j x').or (pixelGot x (quadBytes q) j x') := by
  unfold bytesGot pixelGot
  have hlen : (quadBytes q).length = 4 := rfl
  rcases Nat.lt_trichotomy x x' with hx | rfl | hx
  · rw [if_pos (by omega), if_pos (by omega), if_neg (by omega), Option.or_none,
      List.getElem?_append_right (by omega), hlen]
    congr 1
    omega
  · rw [if_pos (Nat.le_refl x), if_neg (by omega), if_pos rfl, Option.none_or, Nat.sub_self, Nat.mul_zero, Nat.zero_add,
      List.getElem?_append_left (by omega)]
  · rw [if_neg (by omega), if_neg (by omega), if_neg (by omega)]
    rfl

/-- One whole pixel of a flat scanline (R141). -/
theorem flatPixel_got {x : Nat} {q : Quad} {s : State} (hh : 0 < s.height.toNat) (hx : x < s.width.toNat)
    (h : Next s (quadBytes q)) :
    ∃ u, flatPixel x (s.destinations s.ycnt.toNat) s = .ok () u ∧
      ScanlineGot (quadBytes q) (pixelGot x (quadBytes q)) s u :=
  ⟨_, flatPixel_whole h, congrArg (State.moveCursor 4) (s.storeFlat_only x _ _), State.storeFlat_rowGot hh hx _ _⟩

/-- The pixels of a flat scanline, from pixel `x` on, in a stream that ends before the last of them (R141, R162). -/
theorem flatPixels_stop {n x : Nat} {bs : List Byte} {s : State} (hh : 0 < s.height.toNat)
    (hx : x + n ≤ s.width.toNat) (hlen : bs.length < 4 * n) (h : Rest s bs) :
    ∃ t, forUp (fun x => flatPixel x (s.destinations s.ycnt.toNat)) n x s = .error .truncatedData t ∧
      ScanlineGot bs (bytesGot x bs) s t := by
  induction n generalizing x bs s with
  | zero => exact absurd hlen (Nat.not_lt_zero _)
  | succ n ih =>
    by_cases hshort : bs.length < 4
    · refine ⟨_, bind_error (flatPixel_truncated hshort h x),
        congrArg (State.moveCursor _) (s.storeFlat_only x _ bs), ?_⟩
      exact rowGot_congr (fun j _ => bytesGot_of_short hshort x j) (State.storeFlat_rowGot hh (by omega) _ bs)
    · obtain ⟨q, bs, rfl⟩ := exists_quadBytes_append (Nat.le_of_not_lt hshort)
      rw [← holdsUpTo_truncatedData] at h
      obtain ⟨hpixel, hrest⟩ := holdsUpTo_append (as := quadBytes q) (.inl (List.cons_ne_nil _ _)) h
      obtain ⟨u, hu, honly, hgot⟩ := flatPixel_got hh (by omega : x < s.width.toNat) hpixel
      have hrow := honly.rowIn_moveCursor
      obtain ⟨hwidth, hheight, -⟩ := hrow.geometry
      have hycnt : u.ycnt = s.ycnt := by rw [hrow]
      have hds : u.destinations u.ycnt.toNat = s.destinations s.ycnt.toNat := by rw [hrow]; rfl
      rw [← honly.holdsUpTo, holdsUpTo_truncatedData] at hrest
      obtain ⟨t, ht, htonly, htgot⟩ := ih (x := x + 1) (hheight ▸ hh) (by rw [hwidth]; omega)
        (by rw [List.length_append] at hlen; have : (quadBytes q).length = 4 := rfl; omega) hrest
      rw [hds] at ht
      rw [hycnt] at htgot
      refine ⟨t, (bind_ok hu).trans ht, ?_, ?_⟩
      · rw [List.length_append, ← State.moveCursor_moveCursor]
        exact planesOnly_chains.trans _ _ _ (congrArg (State.moveCursor bs.length) honly) htonly
      · exact rowGot_congr (bytesGot_quad x q bs) (rowGot_trans hgot hrow htgot)

/-- A flat scanline that breaks off does not begin with the marker of its width (R72 (d), R139). -/
theorem isMarker_flatStop {bs : List Byte} {s : State} (h : Rest s bs)
    (hm : ∀ h l, bs.take 4 = [2#8, 2#8, h, l] → h.toNat * 256 + l.toNat ≠ s.width.toNat) : isMarker s = false := by
  by_cases hshort : bs.length < 4
  · exact isMarker_truncated hshort h
  · obtain ⟨q, bs, rfl⟩ := exists_quadBytes_append (Nat.le_of_not_lt hshort)
    rw [← holdsUpTo_truncatedData] at h
    have hq : s.nextQuad = q :=
      nextQuad_of_next (holdsUpTo_append (as := quadBytes q) (.inl (List.cons_ne_nil _ _)) h).1
    refine Bool.eq_false_iff.mpr fun hmark => ?_
    obtain ⟨-, ⟨hr, hg⟩, hbe⟩ := (isMarker_iff s).mp hmark
    rw [hq] at hr hg hbe
    have htake : (quadBytes q ++ bs).take 4 = [q.r, q.g, q.b, q.e] := rfl
    exact hm q.b q.e (by rw [htake, hr, hg]) hbe

/-! ### A scanline in either form -/

theorem decodeScan_error {b : Bool} {f : FaultCode} {s t : State} (hm : isMarker s = b)
    (h : decodeScanAs b (s.destinations s.ycnt.toNat) s = .error f t) : decodeScan s = .error f t := by
  rw [decodeScan, reading_apply, hm, bind_error h]

/-- A scanline that stops (R136, R139, R141). -/
theorem decodeScan_stop {f : FaultCode} {bs : List Byte} {got : Nat → Nat → Option Byte} {s : State}
    (hh : 0 < s.height.toNat) (hstop : ScanStop s.width.toNat f bs got) (h : HoldsUpTo f s bs) :
    ∃ t, decodeScan s = .error f t ∧ ScanlineGot bs got s t := by
  cases hstop with
  | flat _ hlen hm =>
    rw [holdsUpTo_truncatedData] at h
    obtain ⟨t, ht, honly, hgot⟩ := flatPixels_stop (x := 0) hh (Nat.le_of_eq (Nat.zero_add _)) hlen h
    refine ⟨t, decodeScan_error (isMarker_flatStop h hm) ht, honly, ?_⟩
    exact rowGot_congr (fun j _ x => (if_pos (Nat.zero_le x)).symm) hgot
  | rle rows rs f tail lits hw hlen hrows hrs hshort hrow =>
    rw [List.append_assoc] at h ⊢
    obtain ⟨hn, hrest⟩ := holdsUpTo_append (.inl (List.cons_ne_nil _ _)) h
    obtain ⟨t, ht, hgot⟩ := decodeScanRle_stop hh hlen hrows hrs hshort hrow hn hrest
    exact ⟨t, decodeScan_error (isMarker_marker hw (next_append hn).1) ht, hgot⟩

/-! ### DEC_SCAN -/

/-- DEC_SCAN with its checks passed is one scanline (R141). -/
theorem exec_decScan_checked {s : State} (hr : s.Ready) (h : ScanChecks s) :
    exec .decScan s = settle 0x41000000#32 (decodeScan s) :=
  exec_decScan hr ((State.geomFits_iff _ _ s).mpr h.1) h.2

/-- A scanline, whatever comes of it, is stored in its rows of the planes (R140, R141). -/
theorem decodeScan_frame {s : State} {a : Nat} (ha : ¬ InRow s s.ycnt.toNat a) :
    (decodeScan.final s).readPln a = s.readPln a :=
  (storedIn_decodeScan (StoredIn.refl (InRow s s.ycnt.toNat) s) fun _ => id).pln a ha

/-- Settles O37: a scanline in either form is stored, or stops with the bytes it has read. -/
theorem decScanStoresTheScanline : Obligations.DecScanStoresTheScanline := by
  unfold Obligations.DecScanStoresTheScanline
  refine ⟨rfl, fun s hr => ⟨fun sc hchecks hsc hn => ?_, fun f bs got hchecks hstop h => ?_, fun hchecks => ?_⟩⟩
  · obtain ⟨hgeom, hy⟩ := id hchecks
    have hw := State.width_pos ((State.geomFits_iff _ _ s).mpr hgeom)
    obtain ⟨t, ht, honly, hgot⟩ := decodeScan_readable hw (Nat.zero_lt_of_lt hy) hsc hn
    refine ⟨t, by rw [exec_decScan_checked hr hchecks, ht, settle_ok], honly,
      rowsStored_of_rowGot hsc hgot (by rw [honly]; rfl), fun a ha => ?_⟩
    rw [← final_ok ht]
    exact decodeScan_frame ha
  · obtain ⟨t, ht, honly, hgot⟩ := decodeScan_stop (Nat.zero_lt_of_lt hchecks.2) hstop h
    refine ⟨t, honly, hgot, fun a ha => ?_, by rw [exec_decScan_checked hr hchecks, ht, settle_error]⟩
    rw [← final_error ht]
    exact decodeScan_frame ha
  · refine configFaults_of_body rfl hr ?_
    rw [bind_check (checkGeom_apply _ _ s)]
    by_cases hg : s.geomFits s.planes false = true
    · rw [if_pos hg, bind_check (checkRow_apply s), if_neg]
      exact fun hy => hchecks ⟨(State.geomFits_iff _ _ s).mp hg, hy⟩
    · rw [if_neg hg]

end Sys2Proof.Machine
end

section
/-! DEC_IMAGE that stops in a scanline (O60, R142): the scanlines before it are in their rows, what it has read of its own is in
the next row, and the loop of PLN2IMG is not reached. -/

namespace Sys2Proof.Machine

open Sys2Proof.Spec

/-! ### Scanlines, then one that stops -/

/-- Readable scanlines of the image, then one that stops, decoded from `YCNT` on (R142). -/
theorem decodeScans_stop {n : Nat} {scs : List Scan} {f : FaultCode} {bs : List Byte} {got : Nat → Nat → Option Byte}
    {s : State} (hw : 0 < s.width.toNat) (hy : s.ycnt.toNat + n ≤ s.height.toNat) (hlen : scs.length < n)
    (hscs : ∀ sc ∈ scs, sc.Readable s.width.toNat) (hn : Next s (scansBytes s.width.toNat scs))
    (hstop : ScanStop s.width.toNat f bs got)
    (h : HoldsUpTo f (s.moveCursor (scansBytes s.width.toNat scs).length) bs) :
    ∃ u t, times decodeScan scs.length s = .ok () u ∧ Decoded scs s u ∧ decodeScan u = .error f t ∧
      ScanlineGot bs got u t ∧ times decodeScan n s = .error f t := by
  obtain ⟨u, hu, hdec⟩ := decodeScans_readable hw (by omega) hscs hn
  have hwidth : u.width = s.width := by rw [hdec.only]
  have hheight : u.height = s.height := by rw [hdec.only]
  have hread : HoldsUpTo f u bs := by rw [hdec.only]; exact h
  obtain ⟨t, ht, hgot⟩ := decodeScan_stop (by rw [hheight]; omega) (hwidth ▸ hstop) hread
  obtain ⟨m, rfl⟩ : ∃ m, n = scs.length + (m + 1) := ⟨n - scs.length - 1, by omega⟩
  refine ⟨u, t, hu, hdec, ht, hgot, ?_⟩
  rw [times_add, bind_ok hu, times_succ, bind_error ht]

/-- The rows of the scanlines before `YCNT + n` are the only cells that `n` scanlines write (R142). -/
theorem decodeScans_frame {n a : Nat} {s : State} (hy : s.ycnt.toNat + n ≤ s.height.toNat)
    (ha : ∀ y, y < s.ycnt.toNat + n → ¬ InRow s y a) : ((times decodeScan n).final s).readPln a = s.readPln a :=
  (storedIn_decodeScans (StoredIn.refl (fun b => ∃ y, y < s.ycnt.toNat + n ∧ InRow s y b) s) hy
    fun y _ hlt _ hb => ⟨y, hlt, hb⟩).pln a fun ⟨y, hlt, hb⟩ => ha y hlt hb

/-- What a row gets is over what it held before other rows were written. -/
theorem rowGot_congr_start {got : Nat → Nat → Option Byte} {y : Nat} {s u t : State} (h : RowGot got y u t)
    (hsu : ScanInOnly s u) (hp : ∀ a, InRow s y a → u.readPln a = s.readPln a) : RowGot got y s t := by
  obtain ⟨hw, hh, -⟩ := hsu.geometry
  intro k j x hk hx
  have hgot := h k j x (hsu.keptPlanes ▸ hk) (hw ▸ hx)
  rw [hw, hh] at hgot
  exact hgot.trans (congrArg _ (hp _ ⟨k, x, (keptPlanes_lt hk).1, hx, rfl⟩))

/-! ### DEC_IMAGE -/

/-- DEC_IMAGE whose scanlines stop does not reach the loop of PLN2IMG (R142). -/
theorem exec_decImage_error {s v t : State} {f : FaultCode} (hr : s.Ready) (hheader : readHeader s = .ok () v)
    (hg : v.geomFits v.planes true = true) (hscans : times decodeScan v.height.toNat v.firstScan = .error f t) :
    exec .decImage s = .next (t.enterFault f (Instr.word .decImage)) := by
  refine (command_ready hr).trans ?_
  have hloop : reading (fun s => s.height.toNat) (times decodeScan) v.firstScan = .error f t := hscans
  rw [bind_ok hheader, bind_check (checkGeom_apply _ _ v), if_pos hg, bind_ok (update_apply _ v), bind_error hloop,
    settle_error]

theorem isHeader_ne_nil {bs : List Byte} {h w : Nat} (hbs : IsHeader bs h w) : bs ≠ [] := by
  obtain ⟨-, -, -, -, -, rfl⟩ := hbs
  exact List.cons_ne_nil _ _

/-- A file whose scanlines stop after those of `scs` (R142): `u` is what they leave, `t` where decoding stops. -/
theorem exec_decImage_stopped {head : List Byte} {h w : Nat} {scs : List Scan} {f : FaultCode} {bs : List Byte}
    {got : Nat → Nat → Option Byte} {s : State} (hr : s.Ready) (hhead : IsHeader head h w)
    (hg : GeomFits s.planes true (s.afterHeader head.length h w)) (hlen : scs.length < h)
    (hscs : ∀ sc ∈ scs, sc.Readable w) (hstop : ScanStop w f bs got)
    (hholds : HoldsUpTo f s (head ++ scansBytes w scs ++ bs)) :
    let z := (s.afterHeader head.length h w).firstScan
    ∃ u t, exec .decImage s = .next (t.enterFault f (Instr.word .decImage)) ∧ Decoded scs z u ∧ ScanlineGot bs got u t ∧
      (∀ a, (∀ y, y < scs.length → ¬ InRow z y a) → u.readPln a = z.readPln a) ∧
      ∀ a, ¬ InRow z scs.length a → t.readPln a = u.readPln a := by
  intro z
  obtain ⟨hh, hw, hwpos⟩ := isHeader_bounds hhead
  obtain ⟨hnfile, hread⟩ := holdsUpTo_append
    (.inl (List.append_ne_nil_of_left_ne_nil (isHeader_ne_nil hhead) (scansBytes w scs))) hholds
  obtain ⟨hnhead, hnscans⟩ := next_append hnfile
  rw [List.length_append, ← State.moveCursor_moveCursor] at hread
  have hwidth : z.width.toNat = w := hw
  have hheight : z.height.toNat = h := hh
  have hycnt : z.ycnt.toNat = 0 := rfl
  obtain ⟨u, t, hu, hdec, ht, hgot, hloop⟩ := decodeScans_stop (n := h) (s := z) (by rw [hwidth]; exact hwpos)
    (by omega) hlen (by rw [hwidth]; exact hscs) (by rw [hwidth]; exact hnscans) (by rw [hwidth]; exact hstop)
    (by rw [hwidth]; exact hread)
  have hexec : times decodeScan (s.afterHeader head.length h w).height.toNat z = .error f t := by
    rw [show (s.afterHeader head.length h w).height.toNat = h from hh, hloop]
  have huy : u.ycnt.toNat = scs.length := by
    rw [hdec.only, BitVec.toNat_add, hycnt, BitVec.toNat_ofNat]
    have := z.height.isLt
    omega
  have hscanIn : ScanInOnly z u := by rw [hdec.only]; rfl
  refine ⟨u, t, exec_decImage_error hr (readHeader_isHeader hhead hnhead) ((State.geomFits_iff _ _ _).mpr hg) hexec, hdec,
    hgot, fun a ha => ?_, fun a ha => ?_⟩
  · rw [← final_ok hu]
    exact decodeScans_frame (by omega) fun y hy => ha y (by omega)
  · rw [← final_error ht]
    exact decodeScan_frame fun hrow => ha ((hscanIn.inRow _ a).mp (huy ▸ hrow))

/-- Settles O60: the header, the scanlines before the one that stops, each stored in its own rows, and then that one. -/
theorem decImageFaultsInAScanline : Obligations.DecImageFaultsInAScanline := by
  unfold Obligations.DecImageFaultsInAScanline
  intro s head h w scs f bs got hr hhead g hgeom hlen hscs hstop hholds
  obtain ⟨hh, hw, -⟩ := isHeader_bounds hhead
  obtain ⟨u, t, hexec, hdec, hgot, hbefore, hlast⟩ := exec_decImage_stopped hr hhead hgeom hlen hscs hstop hholds
  have hgu : ScanInOnly g u := by rw [hdec.only]; rfl
  have hut : ScanInOnly u t := hgot.only.rowIn_moveCursor.scanIn
  have hgh : g.height.toNat = h := hh
  have huy : u.ycnt.toNat = scs.length := by
    have := g.height.isLt
    rw [hdec.only, State.firstScan_ycnt, BitVec.zero_add, BitVec.toNat_ofNat]
    omega
  have hother : ∀ {a y y'}, y ≤ scs.length → y' ≤ scs.length → InRow g y a → InRow g y' a → y = y' :=
    fun hy hy' => inRow_unique (by omega) (by omega)
  refine ⟨t, ?_, fun y sc hsc => ?_, ?_, fun a ha => ?_, hexec⟩
  · have hwidth : (s.afterHeader head.length h w).firstScan.width.toNat = w := hw
    have hstatus : scansStatus scs (s.afterHeader head.length h w).firstScan =
        match scs.getLast? with
          | some last => (s.setStrat last.isRle).status
          | none => s.status := by
      unfold scansStatus
      cases scs.getLast? <;> rfl
    have honly := hdec.only
    rw [hwidth, hstatus, State.firstScan_ycnt, BitVec.zero_add] at honly
    rw [List.length_append, List.length_append, BitVec.ofNat_add, BitVec.ofNat_add, ← BitVec.add_assoc, ← BitVec.add_assoc]
    have hgotonly := hgot.only
    unfold PlanesOnly at hgotonly
    rw [honly] at hgotonly
    exact hgotonly
  · obtain ⟨hlt, -⟩ := List.getElem?_eq_some_iff.mp hsc
    have hrow := hdec.rows y sc hsc
    rw [State.firstScan_ycnt, BitVec.toNat_ofNat, Nat.zero_mod, Nat.zero_add] at hrow
    refine rowsStored_congr hrow hut fun a ha => hlast a fun ha' => ?_
    exact absurd (hother (Nat.le_of_lt hlt) (Nat.le_refl _) ((hgu.inRow y a).mp ha) ha') (Nat.ne_of_lt hlt)
  · have hrow := hgot.row
    rw [huy] at hrow
    refine rowGot_congr_start hrow hgu fun a ha => hbefore a fun y hy ha' => ?_
    exact absurd (hother (Nat.le_of_lt hy) (Nat.le_refl _) ha' ha) (Nat.ne_of_lt hy)
  · rw [hlast a (ha _ (Nat.le_refl _)), hbefore a fun y hy => ha y (Nat.le_of_lt hy)]
    rfl

end Sys2Proof.Machine
end

section
/-! What a stream token can do (O50): nothing, where no decoder is reading it; or a store in its cells of `PLN`, and then what
follows a run, a marker or a pixel, or the fault of its run. -/

namespace Sys2Proof.Machine

open Sys2Proof.Spec

/-! ### What follows a run, a marker or a pixel -/

/-- `t` is `u` after the end of a token of command `c` that raises nothing (R141, R142). -/
structure TokenEnds (c : DecodeCommand) (u t : State) : Prop where
  only : t = { u with img := t.img, ycnt := t.ycnt, status := t.status, decoding := t.decoding }
  img : c ≠ .decImage → t.img = u.img
  readImg : ∀ a, u.pixels * u.channels ≤ a → t.readImg a = u.readImg a
  status : t.status = u.status ∨ ∃ b, t.status = (u.setStrat b).status

theorem tokenEnds_decodeAt (c : DecodeCommand) (p : DecodePhase) (u : State) : TokenEnds c u (u.decodeAt c p) :=
  ⟨rfl, fun _ => rfl, fun _ _ => rfl, .inl rfl⟩

theorem tokenEnds_scanDone (c : DecodeCommand) (b : Bool) (u : State) : TokenEnds c u (u.scanDone c b) := by
  cases c with
  | rleDec k => exact ⟨rfl, fun _ => rfl, fun _ _ => rfl, .inl rfl⟩
  | decScan => exact ⟨rfl, fun _ => rfl, fun _ _ => rfl, .inr ⟨b, rfl⟩⟩
  | decImage =>
    unfold State.scanDone
    by_cases hmore : (u.endScan b).ycnt.toNat < u.height.toNat
    · simp only [hmore, if_true]
      exact ⟨rfl, fun h => absurd rfl h, fun _ _ => rfl, .inr ⟨b, rfl⟩⟩
    · simp only [hmore, if_false]
      have honly := unpackImage_final_only (u.endScan b)
      refine ⟨?_, fun h => absurd rfl h, fun a ha => readImg_unpackImage_final_other (s := u.endScan b) ha, .inr ⟨b, ?_⟩⟩
      · rw [honly]; rfl
      · rw [honly]; rfl

theorem tokenEnds_runDone (c : DecodeCommand) (dst : Option Nat) (done : Nat) (rest : List (Option Nat)) (u : State) :
    TokenEnds c u (u.runDone c dst done rest) := by
  unfold State.runDone
  split
  · exact tokenEnds_decodeAt c _ u
  · split
    · exact tokenEnds_decodeAt c _ u
    · exact tokenEnds_scanDone c true u

theorem tokenEnds_pixelDone (c : DecodeCommand) (x : Nat) (u : State) : TokenEnds c u (u.pixelDone c x) := by
  unfold State.pixelDone
  split
  · exact tokenEnds_decodeAt c _ u
  · exact tokenEnds_scanDone c false u

/-! ### The runs -/

/-- A run writes nothing outside its bytes of the row. -/
theorem State.readPln_fillRow_outside {dst : Option Nat} {done n a : Nat} {vs : List Byte} {s : State}
    (hvs : vs.length ≤ n) (h : ∀ d, dst = some d → a < d + done ∨ d + done + n ≤ a) :
    (s.fillRow dst done vs).readPln a = s.readPln a := by
  rw [State.readPln_fillRow]
  cases dst with
  | none => rfl
  | some d =>
    rcases h d rfl with hlt | hle
    · exact if_neg (Nat.not_le_of_lt hlt)
    · simp only [if_pos (show d + done ≤ a by omega), List.getElem?_eq_none (show vs.length ≤ a - (d + done) by omega),
        Option.getD_none]

/-- A run of `n` bytes stores at most `n` of them in its row, whether it runs to its end or raises (R136). -/
def StoresRun (n : Nat) (body : Option Nat → Nat → Op Unit) : Prop :=
  ∀ dst done s, ∃ vs m, vs.length ≤ n ∧ (body dst done).final s = (s.fillRow dst done vs).moveCursor m

theorem raise_storesRun (f : FaultCode) (n : Nat) : StoresRun n fun _ _ => raise f := fun dst done s =>
  ⟨[], 0, Nat.zero_le n, by rw [State.fillRow_nil, State.moveCursor_zero]; rfl⟩

theorem repeatRun_storesRun (n : Nat) : StoresRun n (repeatRun n) := fun dst done s => by
  have hnone : s = (s.fillRow dst done []).moveCursor 0 := by rw [State.fillRow_nil, State.moveCursor_zero]
  rw [Op.final, repeatRun_apply]
  by_cases hw : n ≤ s.width.toNat - done
  · by_cases hb : s.spos.toNat < s.slen.toNat
    · rw [if_pos hw, if_pos hb]
      exact ⟨_, 1, Nat.le_of_eq List.length_replicate, rfl⟩
    · rw [if_pos hw, if_neg hb]
      exact ⟨[], 0, Nat.zero_le n, hnone⟩
  · rw [if_neg hw]
    exact ⟨[], 0, Nat.zero_le n, hnone⟩

theorem literalRun_storesRun (n : Nat) : StoresRun n (literalRun n) := fun dst done s => by
  have hnone : s = (s.fillRow dst done []).moveCursor 0 := by rw [State.fillRow_nil, State.moveCursor_zero]
  rw [Op.final, literalRun_apply]
  by_cases hw : n ≤ s.width.toNat - done
  · by_cases hb : n ≤ s.slen.toNat - s.spos.toNat
    · rw [if_pos hw, if_pos hb]
      exact ⟨_, n, Nat.le_of_eq (State.strSlice_length _ _ _), rfl⟩
    · rw [if_pos hw, if_neg hb]
      exact ⟨_, _, (Nat.le_of_eq (State.strSlice_length _ _ _)).trans (Nat.le_of_not_le hb), rfl⟩
  · rw [if_neg hw]
    exact ⟨[], 0, Nat.zero_le n, hnone⟩

/-- A token with a length is a run of that length, which stores at most that many bytes and raises only what is allowed
it. -/
theorem exec_runToken_length {i : Instr} {n : Nat} (h : tokenLength i = some n) :
    ∃ body, (∀ s, exec i s = runToken n body s) ∧ StoresRun n body ∧
      ∀ dst done, Op.RaisesOnly (fun f => mayRaise i f = true) (body dst done) := by
  have hrow : ∀ {j : Instr}, (∀ f, mayRaise j f = (f == .formatFault || f == .truncatedData)) → ∀ {x : Op Unit},
      Op.RaisesOnly RowFaults x → Op.RaisesOnly (fun f => mayRaise j f = true) x := fun hj _ hx s f t e => by
    refine (hj f).trans ?_
    rcases hx s f t e with rfl | rfl <;> rfl
  cases i with
  | rleZero =>
    cases h
    exact ⟨_, fun _ => rfl, raise_storesRun .formatFault 0, fun _ _ => Op.raisesOnly_raise rfl⟩
  | rleDump n =>
    cases h
    exact ⟨_, fun _ => rfl, literalRun_storesRun _, fun _ _ => hrow (fun _ => rfl) (literalRun_raisesOnly _ _ _)⟩
  | rleDump128 =>
    cases h
    exact ⟨_, fun _ => rfl, literalRun_storesRun _, fun _ _ => hrow (fun _ => rfl) (literalRun_raisesOnly _ _ _)⟩
  | rleRepeat1 =>
    cases h
    exact ⟨_, fun _ => rfl, repeatRun_storesRun _, fun _ _ => hrow (fun _ => rfl) (repeatRun_raisesOnly _ _ _)⟩
  | rleRepeat n =>
    cases h
    exact ⟨_, fun _ => rfl, repeatRun_storesRun _, fun _ _ => hrow (fun _ => rfl) (repeatRun_raisesOnly _ _ _)⟩
  | _ => nomatch h

/-! ### Every token -/

/-- Cell `a` of `PLN` is none of those that token `i` may store to at phase `p`: the bytes of the run, or of the pixel. -/
def OutsideToken (i : Instr) (s : State) (a : Nat) : DecodePhase → Prop
  | .row dst done _ => ∀ d n, dst = some d → tokenLength i = some n → a < d + done ∨ d + done + n ≤ a
  | .head => ∀ k, k < s.planes → a ≠ s.rowBase k s.ycnt.toNat + 0
  | .flat x => ∀ k, k < s.planes → a ≠ s.rowBase k s.ycnt.toNat + x

/-- Token `i`, read by command `c` at phase `p`, has made `u` of `s` with its bytes, and then ended in `t`. -/
structure TokenStep (i : Instr) (c : DecodeCommand) (p : DecodePhase) (s u t : State) : Prop where
  only : RowInOnly s u
  pln : ∀ a, OutsideToken i s a p → u.readPln a = s.readPln a
  ends : TokenEnds c u t ∨ ∃ f, mayRaise i f = true ∧ t = u.enterFault f c.word

theorem tokenStep_run {i : Instr} {n : Nat} {c : DecodeCommand} {dst : Option Nat} {done : Nat}
    {rest : List (Option Nat)} {body : Option Nat → Nat → Op Unit} {s t : State} (hi : tokenLength i = some n)
    (hstores : StoresRun n body) (hraises : Op.RaisesOnly (fun f => mayRaise i f = true) (body dst done))
    (e : settle c.word ((body dst done >>= fun _ => update (State.runDone c dst (done + n) rest)) s) = .next t) :
    ∃ u, TokenStep i c (.row dst done rest) s u t := by
  obtain ⟨vs, m, hvs, hfinal⟩ := hstores dst done s
  have honly : RowInOnly s ((body dst done).final s) := by
    rw [hfinal]
    exact PlanesOnly.rowIn_moveCursor (n := m) ((s.fillRow_only dst done vs).moveCursor m)
  have hpln : ∀ a, OutsideToken i s a (.row dst done rest) → ((body dst done).final s).readPln a = s.readPln a :=
    fun a ha => by
      rw [hfinal]
      exact State.readPln_fillRow_outside hvs fun d hd => ha d n hd hi
  refine ⟨(body dst done).final s, honly, hpln, ?_⟩
  cases hb : body dst done s with
  | ok a u =>
    rw [bind_ok hb, update_apply, settle_ok] at e
    injection e with e
    rw [final_ok hb, ← e]
    exact .inl (tokenEnds_runDone c dst (done + n) rest u)
  | error f u =>
    rw [bind_error hb, settle_error] at e
    injection e with e
    rw [final_error hb]
    exact .inr ⟨f, hraises s f u hb, e.symm⟩

theorem tokenStep_pixel {i : Instr} {c : DecodeCommand} {p : DecodePhase} {x : Nat} {q : Quad} {s t : State}
    (hp : p = .head ∧ x = 0 ∨ p = .flat x) (e : pixelToken c x q s = .next t) : ∃ u, TokenStep i c p s u t := by
  rw [pixelToken_eq] at e
  injection e with e
  refine ⟨_, (s.storeFlat_only x _ _).rowIn, fun a ha => ?_, .inl (e ▸ tokenEnds_pixelDone c x _)⟩
  refine State.readPln_storeFlat_of_ne (fun d hd => ?_) _ s
  obtain ⟨k, hk, rfl⟩ := State.mem_destinations hd
  rcases hp with ⟨rfl, rfl⟩ | rfl
  · exact ha k hk
  · exact ha k hk

theorem tokenStep_rows {i : Instr} {c : DecodeCommand} {s : State} : TokenStep i c .head s s (s.beginRows c) :=
  ⟨rfl, fun _ _ => rfl, .inl (s.beginRows_eq c ▸ tokenEnds_decodeAt c _ s)⟩

/-- Token `i` has done nothing to `s`, or taken its step in the decode context of `s` (log 5, log 6). -/
def TokenDoes (i : Instr) (s t : State) : Prop :=
  t = s ∨ ∃ c p u, s.decoding = some ⟨c, p⟩ ∧ TokenStep i c p s u t

/-- Everything a stream token that answers a next state can have done. -/
theorem token_answers {i : Instr} {s t : State} (hi : isCommand i = false) (e : exec i s = .next t) :
    TokenDoes i s t := by
  have hrun : ∀ {n}, tokenLength i = some n → TokenDoes i s t := fun {n} hn => by
    obtain ⟨body, hbody, hstores, hraises⟩ := exec_runToken_length hn
    rw [hbody] at e
    refine (runToken_answers e).imp_right fun ⟨c, dst, done, rest, hd, _, h⟩ => ?_
    obtain ⟨u, hu⟩ := tokenStep_run hn hstores (hraises dst done) h
    exact ⟨c, _, u, hd, hu⟩
  have hpixel : ∀ {c p x q}, (p = .head ∧ x = 0 ∨ p = .flat x) → s.decoding = some ⟨c, p⟩ →
      pixelToken c x q s = .next t → TokenDoes i s t := fun {c p _ _} hp hd h => by
    obtain ⟨u, hu⟩ := tokenStep_pixel hp h
    exact .inr ⟨c, p, u, hd, hu⟩
  cases i with
  | rleZero | rleDump | rleDump128 | rleRepeat1 | rleRepeat => exact hrun rfl
  | scanMarker m l =>
    replace e : execScanMarker m l s = .next t := e
    unfold execScanMarker at e
    split at e
    case h_1 c hd =>
      split at e
      · split at e
        · injection e with e
          exact .inr ⟨c, .head, s, hd, e ▸ tokenStep_rows⟩
        · exact hpixel (.inl ⟨rfl, rfl⟩) hd e
      · nomatch e
    all_goals injection e with e; exact .inl e.symm
  | rgbeQuad r g b q =>
    replace e : execRgbeQuad r g b q s = .next t := e
    unfold execRgbeQuad at e
    split at e
    case h_1 c hd =>
      split at e
      · exact hpixel (.inl ⟨rfl, rfl⟩) hd e
      · nomatch e
    case h_2 c x hd =>
      split at e
      · exact hpixel (.inr rfl) hd e
      · nomatch e
    all_goals injection e with e; exact .inl e.symm
  | _ => nomatch hi

/-! ### The frame -/

theorem scanFaultOnly_congr {w : Word} {s u t : State} (hs : u.status = s.status) (he : u.ecmd = s.ecmd)
    (h : ScanFaultOnly w u t) : ScanFaultOnly w s t := by
  rcases h with h | ⟨b, h⟩
  · exact .inl (faultOnly_congr hs he h)
  · exact .inr ⟨b, faultOnly_congr (setStrat_status_congr hs b) he h⟩

/-- What the end of a token leaves, a fault or not. -/
structure TokenLeaves (c : DecodeCommand) (u t : State) : Prop where
  only : t = { u with
    img := t.img, ycnt := t.ycnt, status := t.status, ecmd := t.ecmd, decoding := t.decoding }
  img : c ≠ .decImage → t.img = u.img
  readImg : ∀ a, u.pixels * u.channels ≤ a → t.readImg a = u.readImg a
  status : ScanFaultOnly c.word u t

theorem TokenEnds.leaves {c : DecodeCommand} {u t : State} (h : TokenEnds c u t) : TokenLeaves c u t := by
  have hecmd : t.ecmd = u.ecmd := by rw [h.only]
  refine ⟨?_, h.img, h.readImg, ?_⟩
  · rw [hecmd]; exact h.only
  · exact h.status.imp (fun hs => .inl ⟨hs, hecmd⟩) fun ⟨b, hs⟩ => ⟨b, .inl ⟨hs, hecmd⟩⟩

theorem tokenLeaves_enterFault (c : DecodeCommand) (f : FaultCode) (u : State) :
    TokenLeaves c u (u.enterFault f c.word) :=
  ⟨rfl, fun _ => rfl, fun _ _ => rfl, .inl (.inr ⟨f, rfl, rfl⟩)⟩

theorem TokenStep.leaves {i : Instr} {c : DecodeCommand} {p : DecodePhase} {s u t : State}
    (h : TokenStep i c p s u t) : TokenLeaves c u t := by
  rcases h.ends with h | ⟨f, -, rfl⟩
  · exact h.leaves
  · exact tokenLeaves_enterFault c f u

/-- Settles O50: a token that does anything stores in its cells, and its end leaves `PLN`. -/
theorem tokenFrame : Obligations.TokenFrame := by
  unfold Obligations.TokenFrame
  intro s t i hi e
  rcases token_answers hi e with rfl | ⟨c, p, u, hd, hstep⟩
  · exact ⟨rfl, fun _ _ => rfl, fun _ => rfl, fun _ _ _ => .inl (.inl ⟨rfl, rfl⟩), fun _ _ _ _ _ _ _ _ _ => rfl,
      fun _ _ _ _ _ _ _ => rfl⟩
  have hleaves := hstep.leaves
  have honly := hstep.only
  have hpln : ∀ a, OutsideToken i s a p → t.readPln a = s.readPln a := fun a ha => by
    rw [hleaves.only]
    exact hstep.pln a ha
  have hsame : ∀ {c' p'}, s.decoding = some ⟨c', p'⟩ → c' = c ∧ p' = p := fun h => by
    rw [hd] at h
    cases h
    exact ⟨rfl, rfl⟩
  refine ⟨?_, fun a ha => ?_, fun hc => ?_, fun c' p' h => ?_, fun c' dst done rest n h hn a ha => ?_,
    fun c' p' x hp h a ha => ?_⟩
  · have hend := hleaves.only
    rw [honly] at hend
    rw [hend]
  · have himg : u.readImg a = s.readImg a := by rw [honly]; rfl
    rw [← himg]
    refine hleaves.readImg a ?_
    rw [honly]
    exact ha
  · have himg : u.img = s.img := by rw [honly]
    exact (hleaves.img fun hc' => hc p (hc' ▸ hd)).trans himg
  · obtain ⟨rfl, rfl⟩ := hsame h
    exact scanFaultOnly_congr (by rw [honly]) (by rw [honly]) hleaves.status
  · obtain ⟨rfl, rfl⟩ := hsame h
    refine hpln a fun d m hdst hm => ?_
    obtain rfl : n = m := Option.some.inj (hn.symm.trans hm)
    exact ha d hdst
  · obtain ⟨rfl, rfl⟩ := hsame h
    rcases hp with ⟨rfl, rfl⟩ | rfl
    · exact hpln a ha
    · exact hpln a ha

end Sys2Proof.Machine
end

section
/-! Which faults an instruction raises (O57, R176), and that DEC_IMAGE writes `IMG` after everything that can raise (O39, R142).
A command's pseudocode leaves `STATUS.ERR` alone, so what the host finds there is the fault of its `raise`, if any. -/

namespace Sys2Proof.Machine

open Sys2Proof.Spec

/-! ### Pseudocode leaves `STATUS.ERR` -/

/-- No write of a command's pseudocode touches `ERR` (R24, R167). -/
theorem err_closedUnderWrites : ClosedUnderWrites fun s t => t.err = s.err where
  refl _ := rfl
  trans _ _ _ h1 h2 := h2.trans h1
  getByte f s := by rw [getByte_keeps f s]; rfl
  putByte b s := by rw [putByte_keeps b s]; rfl
  writeImg _ _ _ := rfl
  writePln _ _ _ := rfl
  setQuad _ _ := rfl
  setFloats _ _ _ _ := rfl
  setDimensions _ _ _ := rfl
  firstScan _ := rfl
  endScan b s := s.err_endScan b

/-- `x` raises only faults of `P`, and leaves `STATUS.ERR` to fault entry. -/
structure Op.Raises {α : Type} (P : FaultCode → Prop) (x : Op α) : Prop where
  only : Op.RaisesOnly P x
  err : Op.Keeps (fun s t => t.err = s.err) x

section Raises

variable {P : FaultCode → Prop} {α β : Type}

theorem Op.Raises.bind {x : Op α} {k : α → Op β} (hx : Op.Raises P x) (hk : ∀ a, Op.Raises P (k a)) :
    Op.Raises P (x >>= k) :=
  ⟨Op.raisesOnly_bind hx.only fun a => (hk a).only,
    Op.keeps_bind err_closedUnderWrites.toChains hx.err fun a => (hk a).err⟩

theorem Op.Raises.reading {g : State → α} {k : α → Op β} (h : ∀ a, Op.Raises P (k a)) :
    Op.Raises P (Machine.reading g k) :=
  ⟨Op.raisesOnly_reading fun a => (h a).only, Op.keeps_reading fun a => (h a).err⟩

theorem Op.Raises.update {g : State → State} (h : ∀ s, (g s).err = s.err) : Op.Raises P (Machine.update g) :=
  ⟨Op.raisesOnly_update g, Op.keeps_update h⟩

theorem Op.Raises.times {body : Op Unit} (h : Op.Raises P body) (n : Nat) : Op.Raises P (Machine.times body n) :=
  ⟨Op.raisesOnly_times h.only n, Op.keeps_times err_closedUnderWrites.toChains h.err n⟩

/-- A check raises its own fault. -/
theorem Op.Raises.check {x : Op Unit} {p : State → Prop} [DecidablePred p] {f : FaultCode}
    (hx : ∀ s, x s = if p s then .ok () s else .error f s) (hf : P f := by rfl) : Op.Raises P x where
  only s g t e := by
    rw [hx] at e
    split at e
    · nomatch e
    · injection e with e
      exact e ▸ hf
  err := err_closedUnderWrites.toChains.keeps_check hx

theorem raises_checkGeom (planes : State → Nat) (useImg : Bool) (hf : P .configFault := by rfl) :
    Op.Raises P (checkGeom planes useImg) := .check (checkGeom_apply planes useImg) hf

/-- A loop of plain writes. -/
theorem Op.Raises.updates {g : Nat → State → State} (h : ∀ i s, (g i s).err = s.err) (n i : Nat) :
    Op.Raises P (forUp (fun j => Machine.update (g j)) n i) :=
  ⟨Op.raisesOnly_forUp (fun j => Op.raisesOnly_update (g j)) n i, err_closedUnderWrites.updates h n i⟩

theorem raises_quantizeImage : Op.Raises P quantizeImage :=
  .reading fun n => .updates err_closedUnderWrites.quantizePixel n 0

theorem raises_unpackImage : Op.Raises P unpackImage :=
  .reading fun n => .updates err_closedUnderWrites.unpackPixel n 0

theorem raises_writeHeader (hf : P .ioError := by rfl) : Op.Raises P writeHeader :=
  ⟨fun s f t e => writeHeader_raisesOnly s f t e ▸ hf, err_closedUnderWrites.writeHeader⟩

theorem raises_readHeader (hf : P .malformedHeader := by rfl) : Op.Raises P readHeader :=
  ⟨fun s f t e => readHeader_raisesOnly s f t e ▸ hf, err_closedUnderWrites.readHeader⟩

theorem raises_encodePlaneRow (k y : Nat) (hf : P .ioError := by rfl) : Op.Raises P (encodePlaneRow k y) :=
  ⟨fun s f t e => encodePlaneRow_raisesOnly k y s f t e ▸ hf, err_closedUnderWrites.encodePlaneRow k y⟩

theorem raises_encodeScan (hf : P .ioError := by rfl) : Op.Raises P encodeScan :=
  ⟨fun s f t e => encodeScan_raisesOnly s f t e ▸ hf, err_closedUnderWrites.encodeScan⟩

theorem raises_rleDecodeRow (dst : Option Nat) (h1 : P .formatFault := by rfl) (h2 : P .truncatedData := by rfl) :
    Op.Raises P (rleDecodeRow dst) :=
  ⟨fun s f t e => (rleDecodeRow_raisesOnly dst s f t e).elim (· ▸ h1) (· ▸ h2),
    err_closedUnderWrites.rleDecodeRow dst⟩

theorem raises_decodeScan (h1 : P .formatFault := by rfl) (h2 : P .truncatedData := by rfl) : Op.Raises P decodeScan :=
  ⟨fun s f t e => (decodeScan_raisesOnly s f t e).elim (· ▸ h1) (· ▸ h2), err_closedUnderWrites.decodeScan⟩

end Raises

/-! ### DEC_IMAGE before the loop of PLN2IMG -/

/-- DEC_IMAGE up to its last scanline (R142). -/
def readImage : Op Unit := do
  readHeader
  checkGeom State.planes true
  update State.firstScan
  reading (fun s => s.height.toNat) (times decodeScan)

theorem exec_decImage_eq (s : State) :
    exec .decImage s = command (Instr.word .decImage) (readImage >>= fun _ => unpackImage) s := by
  simp only [readImage, bind_assoc]
  rfl

/-- DEC_IMAGE leaves `ERR` to fault entry, and raises what R176's table allows it. -/
theorem raises_decImage :
    Op.Raises (fun f => mayRaise .decImage f = true) (readImage >>= fun _ => unpackImage) :=
  .bind (.bind raises_readHeader fun _ => .bind (raises_checkGeom _ _) fun _ =>
    .bind (.update State.err_firstScan) fun _ => .reading (.times raises_decodeScan)) fun _ => raises_unpackImage

theorem img_chains : Chains fun s t => t.img = s.img := ⟨fun _ => rfl, fun _ _ _ h1 h2 => h2.trans h1⟩

/-- Nothing before the loop of PLN2IMG writes `IMG` (R142). -/
theorem readImage_img : Op.Keeps (fun s t => t.img = s.img) readImage :=
  Op.keeps_bind img_chains (readHeader_keeps.weaken fun _ _ h => by rw [h]) fun _ =>
    Op.keeps_bind img_chains (img_chains.keeps_check (checkGeom_apply _ _)) fun _ =>
      Op.keeps_bind img_chains (Op.keeps_update fun _ => rfl) fun _ =>
        Op.keeps_reading (Op.keeps_times img_chains (decodeScan_keeps.weaken fun _ _ h => by rw [h]))

/-- Settles O39: a DEC_IMAGE that runs to its end leaves `ERR` at 0, and one that raises has not reached the loop of
PLN2IMG. -/
theorem faultedDecImageKeepsTheImage : Obligations.FaultedDecImageKeepsTheImage := by
  unfold Obligations.FaultedDecImageKeepsTheImage
  intro s t hr e herr
  rw [exec_decImage_eq] at e
  rcases command_answers e with ⟨h, -⟩ | ⟨-, hok⟩ | ⟨-, f, u, herror, rfl⟩
  · exact absurd hr.2 h
  · have hsame := raises_decImage.err s
    rw [final_ok hok] at hsame
    exact absurd (hsame.trans hr.2) herr
  · have himg := readImage_img s
    cases hread : readImage s with
    | ok a v =>
      rw [bind_ok hread, unpackImage_apply] at herror
      nomatch herror
    | error g v =>
      rw [bind_error hread] at herror
      rw [final_error hread] at himg
      injection herror with _ huv
      exact huv ▸ himg

/-! ### Every command -/

/-- The frame of a command around pseudocode that raises only what R176's table allows the command. -/
def RaisesItsFaults (i : Instr) : Prop :=
  ∃ body : Op Unit, (∀ s, exec i s = command i.word body s) ∧ Op.Raises (fun f => mayRaise i f = true) body

/-- R176's table, row by row. -/
theorem command_raisesItsFaults {i : Instr} (h : isCommand i = true) (hs : i ≠ .srst) : RaisesItsFaults i := by
  cases i with
  | srst => exact absurd rfl hs
  | nop => exact ⟨_, fun _ => rfl, Op.raisesOnly_pure (), Op.keeps_pure err_closedUnderWrites.toChains ()⟩
  | f2rgbe | rgbe2f | f2re | re2f => exact ⟨_, fun _ => rfl, .update fun _ => rfl⟩
  | plnClr =>
    exact ⟨_, fun _ => rfl, .bind (raises_checkGeom _ _) fun _ => .reading fun n =>
      .updates (g := fun a => State.writePln a 0#8) (fun _ _ => rfl) n 0⟩
  | insRgbe | insRe =>
    exact ⟨_, fun _ => rfl, .bind (raises_checkGeom _ _) fun _ => .bind (.check checkPixel_apply) fun _ =>
      .update fun _ => rfl⟩
  | img2pln => exact ⟨_, fun _ => rfl, .bind (raises_checkGeom _ _) fun _ => raises_quantizeImage⟩
  | pln2img => exact ⟨_, fun _ => rfl, .bind (raises_checkGeom _ _) fun _ => raises_unpackImage⟩
  | hdrWr =>
    have hcheck : ∀ z, Op.Raises (fun f => mayRaise .hdrWr f = true) (raiseIf z .configFault) := fun z =>
      ⟨Op.raisesOnly_raiseIf (by rfl) z, Op.keeps_raiseIf err_closedUnderWrites.toChains z _⟩
    exact ⟨_, fun _ => rfl, .bind (.reading hcheck) fun _ => raises_writeHeader⟩
  | hdrRd => exact ⟨_, fun _ => rfl, raises_readHeader⟩
  | rleEnc k =>
    exact ⟨_, fun _ => rfl, .bind (raises_checkGeom _ _) fun _ => .bind (.check (checkPlaneRow_apply k)) fun _ =>
      .reading fun _ => raises_encodePlaneRow _ _⟩
  | encScan =>
    exact ⟨_, fun _ => rfl, .bind (raises_checkGeom _ _) fun _ => .bind (.check checkRow_apply) fun _ =>
      raises_encodeScan⟩
  | encImage =>
    exact ⟨_, fun _ => rfl, .bind (raises_checkGeom _ _) fun _ => .bind raises_quantizeImage fun _ =>
      .bind raises_writeHeader fun _ => .bind (.update State.err_firstScan) fun _ =>
        .reading (.times raises_encodeScan)⟩
  | rleDec k =>
    exact ⟨_, fun _ => rfl, .bind (raises_checkGeom _ _) fun _ => .bind (.check (checkPlaneRow_apply k)) fun _ =>
      .reading fun _ => raises_rleDecodeRow _⟩
  | decScan =>
    exact ⟨_, fun _ => rfl, .bind (raises_checkGeom _ _) fun _ => .bind (.check checkRow_apply) fun _ =>
      raises_decodeScan⟩
  | decImage => exact ⟨_, exec_decImage_eq, raises_decImage⟩
  | rleZero | rleDump | rleDump128 | rleRepeat1 | rleRepeat | scanMarker | rgbeQuad => nomatch h

/-- A command leaves `ERR` at 0, or at the code of a fault that its pseudocode may raise (R167). -/
theorem command_err {P : FaultCode → Prop} {w : Word} {body : Op Unit} {s t : State} (hb : Op.Raises P body)
    (h0 : s.err = 0#4) (e : command w body s = .next t) : t.err = 0#4 ∨ ∃ f, P f ∧ t.err = f.code := by
  rcases command_answers e with ⟨h, -⟩ | ⟨-, hok⟩ | ⟨-, f, u, herror, rfl⟩
  · exact absurd h0 h
  · have hsame := hb.err s
    rw [final_ok hok] at hsame
    exact .inl (hsame.trans h0)
  · exact .inr ⟨f, hb.only s f u herror, u.err_enterFault f w⟩

theorem TokenEnds.err {c : DecodeCommand} {u t : State} (h : TokenEnds c u t) : t.err = u.err := by
  rcases h.status with h | ⟨b, h⟩
  · exact State.err_congr h
  · exact (State.err_congr h).trans (u.err_setStrat b)

/-- Settles O57: a command's `ERR` is that of its pseudocode's `raise`, a token's that of its run's. -/
theorem instructionRaisesOnlyItsFaults : Obligations.InstructionRaisesOnlyItsFaults := by
  unfold Obligations.InstructionRaisesOnlyItsFaults
  intro i s t h0 e
  by_cases hs : i = .srst
  · subst hs
    rw [execSrst_answers e]
    exact .inl rfl
  cases hi : isCommand i with
  | true =>
    obtain ⟨body, hbody, hraises⟩ := command_raisesItsFaults hi hs
    rw [hbody] at e
    exact command_err hraises h0 e
  | false =>
    rcases token_answers hi e with rfl | ⟨c, p, u, -, hstep⟩
    · exact .inl h0
    · rcases hstep.ends with hends | ⟨f, hf, rfl⟩
      · have hu : u.err = s.err := by rw [hstep.only]; rfl
        exact .inl (hends.err.trans (hu.trans h0))
      · exact .inr ⟨f, hf, u.err_enterFault f c.word⟩

end Sys2Proof.Machine
end

section
/-! A command while another is in progress is refused (O9), in the fault state it is ignored (O8); the host's memory port
looks at neither (O59). -/

namespace Sys2Proof.Machine

open Sys2Proof.Spec

/-! ### A command in progress -/

theorem busy_eq_true {s : State} (h : s.decoding.isSome = true) : s.busy = true := h

/-- No pseudocode runs while a command is in progress (U10, log 8). -/
theorem command_busy {w : Word} {body : Op Unit} {s : State} (h : s.decoding.isSome = true) :
    command w body s = .refused .commandWhileBusy := by
  rw [command, busy_eq_true h, if_pos rfl]

theorem exec_srst_busy {s : State} (h : s.decoding.isSome = true) : exec .srst s = .refused .commandWhileBusy := by
  rw [exec, execSrst, busy_eq_true h, if_pos rfl]

/-- Settles O9: every command but SRST is framed, and both the frame and SRST look at `BUSY` first. -/
theorem commandsRefusedWhileBusy : Obligations.CommandsRefusedWhileBusy := by
  unfold Obligations.CommandsRefusedWhileBusy
  intro s i hi hbusy
  by_cases hs : i = .srst
  · exact hs ▸ exec_srst_busy hbusy
  · obtain ⟨body, hbody, -⟩ := command_isFramed hi hs
    exact (hbody s).trans (command_busy hbusy)

/-! ### The host's memory port -/

/-- A host read changes nothing but the value last returned (R154, log 4). -/
theorem perform_readMem (sp : Space) (a : Nat) (s : State) :
    perform (.readMem sp a) s = .next { s with readData := s.readMem sp a } := rfl

section Access

variable {s : State} {a : Nat}

theorem perform_writeImg_inside (h : a < s.cfg.imgWords) (v : Word) :
    perform (.writeImg a v) s = .next (s.writeImg a v) := congrArg Host.Outcome.next (if_pos h)

theorem perform_writePln_inside (h : a < s.cfg.plnBytes) (b : Byte) :
    perform (.writePln a b) s = .next (s.writePln a b) := congrArg Host.Outcome.next (if_pos h)

theorem perform_writeStr_inside (h : a < s.cfg.strBytes.toNat) (b : Byte) :
    perform (.writeStr a b) s = .next (s.writeStr a b) := congrArg Host.Outcome.next (if_pos h)

theorem perform_writeImg_dropped (h : s.cfg.imgWords ≤ a) (v : Word) : perform (.writeImg a v) s = .next s :=
  congrArg Host.Outcome.next (if_neg (Nat.not_lt.mpr h))

theorem perform_writePln_dropped (h : s.cfg.plnBytes ≤ a) (b : Byte) : perform (.writePln a b) s = .next s :=
  congrArg Host.Outcome.next (if_neg (Nat.not_lt.mpr h))

theorem perform_writeStr_dropped (h : s.cfg.strBytes.toNat ≤ a) (b : Byte) : perform (.writeStr a b) s = .next s :=
  congrArg Host.Outcome.next (if_neg (Nat.not_lt.mpr h))

theorem State.readMem_img_inside (h : a < s.cfg.imgWords) : s.readMem .img a = s.readImg a := if_pos h

theorem State.readMem_pln_inside (h : a < s.cfg.plnBytes) : s.readMem .pln a = (s.readPln a).setWidth 32 := if_pos h

theorem State.readMem_str_inside (h : a < s.cfg.strBytes.toNat) : s.readMem .str a = (s.readStr a).setWidth 32 :=
  if_pos h

theorem State.readMem_img_outside (h : s.cfg.imgWords ≤ a) : s.readMem .img a = 0#32 := if_neg (Nat.not_lt.mpr h)

theorem State.readMem_pln_outside (h : s.cfg.plnBytes ≤ a) : s.readMem .pln a = 0#32 := if_neg (Nat.not_lt.mpr h)

theorem State.readMem_str_outside (h : s.cfg.strBytes.toNat ≤ a) : s.readMem .str a = 0#32 := if_neg (Nat.not_lt.mpr h)

end Access

/-- Settles O59: below the capacity the port is the memory's own write and read, whose laws say what a later read returns;
at or above it a write is dropped and a read is 0. -/
theorem hostMemoryPort : Obligations.HostMemoryPort := by
  unfold Obligations.HostMemoryPort
  intro s a v b
  refine ⟨fun h => ⟨_, perform_writeImg_inside h v, rfl, ?_, fun x hx => ?_⟩,
    fun h => ⟨_, perform_writePln_inside h b, rfl, ?_, fun x hx => ?_⟩,
    fun h => ⟨_, perform_writeStr_inside h b, rfl, ?_, fun x hx => ?_⟩,
    fun h => ⟨perform_writeImg_dropped h v, State.readMem_img_outside h⟩,
    fun h => ⟨perform_writePln_dropped h b, State.readMem_pln_outside h⟩,
    fun h => ⟨perform_writeStr_dropped h b, State.readMem_str_outside h⟩,
    fun sp => perform_readMem sp a s⟩
  · rw [State.readMem_img_inside (s := s.writeImg a v) h, State.readImg_writeImg_self]
  · rw [State.readImg_writeImg, if_neg hx]
  · rw [State.readMem_pln_inside (s := s.writePln a b) h, State.readPln_writePln_self]
  · rw [State.readPln_writePln, if_neg hx]
  · rw [State.readMem_str_inside (s := s.writeStr a b) h, State.readStr_writeStr_self]
  · rw [State.readStr_writeStr, if_neg hx]

/-! ### The fault state -/

/-- Every command but SRST is ignored in the fault state (R168). -/
theorem exec_faulted {i : Instr} {s : State} (hd : s.decoding = none) (he : s.err ≠ 0#4) (hi : isCommand i = true)
    (hs : i ≠ .srst) : exec i s = .next s := by
  obtain ⟨body, hbody, -⟩ := command_isFramed hi hs
  exact (hbody s).trans (command_faulted hd he)

/-- Only the word of SRST decodes to SRST (R61). -/
theorem decode_ne_srst {w : Word} {i : Instr} (hw : w ≠ 0xFF000000#32) (h : decode (.command w) = .ok i) : i ≠ .srst := by
  rintro rfl
  exact hw (Code.command.inj (encode_of_decodeCommand h)).symm

/-- Every word but that of SRST is ignored in the fault state, an illegal one too (R63, R168). -/
theorem execute_faulted {w : Word} {s : State} (hd : s.decoding = none) (he : s.err ≠ 0#4) (hw : w ≠ 0xFF000000#32) :
    execute w s = .next s := by
  unfold execute
  split
  · rename_i i hi
    exact exec_faulted hd he (decodeCommand_isCommand hi) (decode_ne_srst hw hi)
  · exact command_faulted hd he

/-- Settles O8: the frame of a command ignores it while `ERR` is not 0, and the host's port does not look at `ERR`. -/
theorem faultStateIgnoresCommands : Obligations.FaultStateIgnoresCommands := by
  unfold Obligations.FaultStateIgnoresCommands
  intro s hd he
  exact ⟨fun w hw => execute_faulted hd he hw, fun i hi hs => exec_faulted hd he hi hs,
    fun idx => perform_readReg idx s, fun idx v hidx => perform_writeReg hidx v s,
    fun sp a => perform_readMem sp a s, fun a v h => perform_writeImg_inside h v,
    fun a v h => perform_writePln_inside h v, fun a v h => perform_writeStr_inside h v⟩

end Sys2Proof.Machine
end

section
/-! Faults as the host sees them: what fault entry writes (O11), that a latched fault stays until a reset (O56), and the
MalformedHeader of the header reader, case by case (O28). -/

namespace Sys2Proof.Machine

open Sys2Proof.Spec

/-! ### Fault entry -/

/-- Settles O11: writing `ERR` keeps the other 28 bits of `STATUS`, and with no command in progress `BUSY` reads 0. -/
theorem faultEntryWritesErrAndEcmd : Obligations.FaultEntryWritesErrAndEcmd := by
  unfold Obligations.FaultEntryWritesErrAndEcmd
  refine ⟨fun f w s => ⟨rfl, ?_, s.err_enterFault f w, busy_eq_false (s.enterFault_decoding f w)⟩, rfl, rfl, rfl, rfl, rfl⟩
  exact s.setErr_status_toNat f.code

/-! ### A latched fault -/

/-- `t` has the fault latched that `s` has, and its command word (R24, R25). -/
def SameFault (s t : State) : Prop := t.err = s.err ∧ t.ecmd = s.ecmd

/-- No host write reaches `STATUS` or `ECMD` (R24, R25, R153). -/
theorem State.writeReg_sameFault (idx : Nat) (v : Word) (s : State) : SameFault s (s.writeReg idx v) := by
  unfold State.writeReg
  split <;> exact ⟨rfl, rfl⟩

/-- In the fault state the host's SRST and hard reset are the only actions that touch the fault (R168, R169). -/
theorem perform_sameFault {a : HostAction} {s t : State} (hd : s.decoding = none) (he : s.err ≠ 0#4)
    (hsrst : a ≠ .writeReg 0x0E 0xFF000000#32) (hreset : a ≠ .hardReset) (e : perform a s = .next t) :
    SameFault s t := by
  cases a with
  | writeReg idx v =>
    by_cases hi : idx = cmdIndex
    · subst hi
      have hv : v ≠ 0xFF000000#32 := fun h => hsrst (h ▸ rfl)
      have hkept : s = t := Host.Outcome.next.inj ((execute_faulted hd he hv).symm.trans e)
      exact hkept ▸ ⟨rfl, rfl⟩
    · exact Host.Outcome.next.inj ((perform_writeReg hi v s).symm.trans e) ▸ s.writeReg_sameFault idx v
  | hardReset => exact absurd rfl hreset
  | readReg | readMem => injection e with e; exact e ▸ ⟨rfl, rfl⟩
  | writeImg | writePln | writeStr => injection e with e; subst e; split <;> exact ⟨rfl, rfl⟩

/-- Settles O56: a step of the invariant is one host action, and in the fault state only SRST and a hard reset touch the
fault. -/
theorem errIsStickyUntilReset : Obligations.ErrIsStickyUntilReset := by
  unfold Obligations.ErrIsStickyUntilReset
  intro s t h he e
  by_cases hsrst : s.program[s.pc]? = some (.writeReg 0x0E 0xFF000000#32)
  · exact .inr (.inl hsrst)
  by_cases hreset : s.program[s.pc]? = some .hardReset
  · exact .inr (.inr hreset)
  rw [step_idle h.notBusy, hostStep] at e
  split at e
  case h_1 a ha =>
    rw [ha] at hsrst hreset
    exact .inl (perform_sameFault (s := { s with pc := s.pc + 1 }) h.notBusy he (hsrst ∘ congrArg some)
      (hreset ∘ congrArg some) e)
  case h_2 => injection e with e; exact .inl (e ▸ ⟨rfl, rfl⟩)

/-! ### A stream that ends inside a line -/

/-- `ReadLine` where the stream ends before any 0x0A, `SPOS` past `SLEN` included (R46, R104). -/
theorem readLine_rest {l : List Byte} {s : State} (hl : lineEnd ∉ l) (h : Rest s l) :
    readLine s = .error .malformedHeader (s.moveCursor l.length) := by
  obtain ⟨hbytes, hlen⟩ := h
  cases l with
  | nil =>
    rw [readLine, reading_apply, ← hlen, List.length_nil, State.moveCursor_zero]
    rfl
  | cons b l =>
    rw [List.length_cons] at hlen
    exact readLine_end hl (State.strSlice_eq hbytes) (by rw [List.length_cons]; omega)

/-- The header's loop where the stream ends inside a line (R103, R161). -/
theorem readFields_rest {l : List Byte} {fuel : Nat} {s : State} (hl : lineEnd ∉ l) (hf : l.length ≤ fuel)
    (h : Rest s l) (seen : Bool) : readFields fuel seen s = .error .malformedHeader (s.moveCursor l.length) := by
  cases fuel with
  | zero =>
    rw [Nat.le_zero.mp hf, State.moveCursor_zero]
    rfl
  | succ n => rw [readFields, bind_error (readLine_rest hl h)]

/-- What the stream still holds, where the first part is not empty: that part comes next, and the other is the rest behind
it. -/
theorem rest_append {as bs : List Byte} {s : State} (h0 : as ≠ []) (h : Rest s (as ++ bs)) :
    Next s as ∧ Rest (s.moveCursor as.length) bs := by
  rw [← holdsUpTo_truncatedData] at h ⊢
  exact holdsUpTo_append (.inl h0) h

/-! ### A dimension line that is none -/

theorem dimension_some {n : Nat} {v : Word} (h : dimension n = some v) : 1 ≤ n ∧ n ≤ 4294967295 := by
  unfold dimension at h
  split at h
  · assumption
  · nomatch h

/-- Only a dimension line of R105 is read as a geometry. -/
theorem dimensions_of_parseDimensions {l : List Byte} {p : Word × Word} (hp : parseDimensions l = some p) :
    ∃ h w, Dimensions l h w := by
  unfold parseDimensions at hp
  split at hp
  case h_1 => nomatch hp
  rename_i l1 htag
  obtain ⟨d1, l2, rfl, hd1, -, htake1⟩ := takeDigits_spec l1 0 0
  rw [htake1] at hp
  dsimp only at hp
  split at hp
  case h_1 => nomatch hp
  rename_i l3 hwtag
  obtain ⟨d2, l4, rfl, hd2, -, htake2⟩ := takeDigits_spec l3 0 0
  rw [htake2] at hp
  dsimp only at hp
  split at hp
  case isTrue => nomatch hp
  rename_i hok
  obtain ⟨hn1, hn2, hl4⟩ : ¬ 0 + d1.length = 0 ∧ ¬ 0 + d2.length = 0 ∧ l4 = [] := by
    simpa only [not_or, ne_eq, not_not] using hok
  split at hp
  case h_2 => nomatch hp
  rename_i hh hw
  obtain ⟨hh1, hh2⟩ := dimension_some hh
  obtain ⟨hw1, hw2⟩ := dimension_some hw
  refine ⟨_, _, d1, d2, ?_, ⟨?_, fun d hm => isDigit_iff.mp (hd1 d hm), rfl⟩,
    ⟨?_, fun d hm => isDigit_iff.mp (hd2 d hm), rfl⟩, hh1, hh2, hw1, hw2⟩
  · rw [afterTag_some htag, afterTag_some hwtag, hl4, List.append_nil]
    simp only [List.append_assoc]
    rfl
  · rintro rfl; exact hn1 rfl
  · rintro rfl; exact hn2 rfl

/-- A line that begins `-Y `, before any format line or no dimension line (R103, R161). -/
theorem takeDimensions_malformed {seen : Bool} {l : List Byte} (h : seen = false ∨ ∀ h w, ¬ Dimensions l h w)
    (s : State) : takeDimensions seen l s = .error .malformedHeader s := by
  cases seen with
  | false => rfl
  | true =>
    have hparse : parseDimensions l = none := Option.eq_none_iff_forall_ne_some.mpr fun p hp =>
      let ⟨_, _, hd⟩ := dimensions_of_parseDimensions hp
      h.resolve_left nofun _ _ hd
    rw [takeDimensions, if_pos rfl, hparse]
    rfl

/-! ### The header reader gives up -/

/-- The state behind the magic line (R103). -/
def State.pastMagic (s : State) : State := s.moveCursor (magicLine ++ [lineEnd]).length

theorem State.moveCursor_pastMagic (bs : List Byte) (s : State) :
    s.moveCursor ((magicLine ++ [lineEnd]) ++ bs).length = s.pastMagic.moveCursor bs.length := by
  rw [State.pastMagic, State.moveCursor_moveCursor, List.length_append]

/-- Past the magic line the header reader is its loop (R103). -/
theorem readHeader_magic {s : State} (h : Next s (magicLine ++ [lineEnd])) :
    readHeader s = readFields (s.pastMagic.slen.toNat - s.pastMagic.spos.toNat) false s.pastMagic := by
  have hread : readLine s = .ok magicLine s.pastMagic := readLine_next (by decide) h
  have hmagic : raiseIf (magicLine != magicText) .malformedHeader s.pastMagic = .ok () s.pastMagic := rfl
  rw [readHeader, bind_ok hread, bind_ok hmagic, reading_apply]

theorem readHeader_notMagic {l : List Byte} {s : State} (hl : lineEnd ∉ l) (hmagic : l ≠ magicLine)
    (h : Next s (l ++ [lineEnd])) :
    readHeader s = .error .malformedHeader (s.moveCursor (l ++ [lineEnd]).length) := by
  have hcheck : (l != magicText) = true := bne_iff_ne.mpr hmagic
  rw [readHeader, bind_ok (readLine_next hl h), hcheck]
  rfl

/-- A line that begins `-Y ` behind lines that do not (R103, R161). -/
theorem readFields_badDimension {ls : List (List Byte)} {dim : List Byte} {fuel : Nat} {s : State}
    (hls : ∀ l ∈ ls, IsLine l ∧ ¬ IsDimensionLine l) (hdim : IsLine dim) (htag : dim.take 3 = heightTag)
    (hbad : formatLine ∉ ls ∨ ∀ h w, ¬ Dimensions dim h w) (hn : Next s (lineBytes ls ++ (dim ++ [lineEnd])))
    (hf : ls.length < fuel) :
    readFields fuel false s = .error .malformedHeader (s.moveCursor (lineBytes ls ++ (dim ++ [lineEnd])).length) := by
  obtain ⟨hlines, hlast⟩ := next_append hn
  obtain ⟨n, rfl⟩ : ∃ n, fuel = n + 1 + ls.length := ⟨fuel - 1 - ls.length, by omega⟩
  have hseen : (false || decide (formatLine ∈ ls)) = false ∨ ∀ h w, ¬ Dimensions dim h w :=
    hbad.imp_left fun h => decide_eq_false h
  rw [readFields_lines hls hlines, readFields, bind_ok (readLine_next hdim hlast), if_neg (ne_formatText_of_tag htag),
    if_pos htag, takeDimensions_malformed hseen, State.moveCursor_moveCursor,
    List.length_append (as := lineBytes ls)]

/-- A stream that ends in a line behind lines that begin no dimension line (R103, R161). -/
theorem readFields_endsLater {ls : List (List Byte)} {l : List Byte} {fuel : Nat} {s : State}
    (hls : ∀ l ∈ ls, IsLine l ∧ ¬ IsDimensionLine l) (hl : IsLine l) (hlines : Next s (lineBytes ls))
    (hrest : Rest (s.moveCursor (lineBytes ls).length) l) (hf : (lineBytes ls ++ l).length ≤ fuel) :
    readFields fuel false s = .error .malformedHeader (s.moveCursor (lineBytes ls ++ l).length) := by
  have hlen := length_le_lineBytes ls
  rw [List.length_append] at hf ⊢
  obtain ⟨n, rfl⟩ : ∃ n, fuel = n + ls.length := ⟨fuel - ls.length, by omega⟩
  rw [readFields_lines hls hlines, readFields_rest hl (by omega) hrest, State.moveCursor_moveCursor]

/-- Every case of R161: the header reader raises MalformedHeader with the cursor behind what was read. -/
theorem readHeader_malformed {bs : List Byte} {s : State} (h : MalformedAfter s bs) :
    readHeader s = .error .malformedHeader (s.moveCursor bs.length) := by
  have hlast : ∀ l, lineBytes [l] = l ++ [lineEnd] := fun l => (lineBytes_cons l []).trans (List.append_nil _)
  cases h with
  | notMagic l hl hmagic hn =>
    rw [hlast] at hn ⊢
    exact readHeader_notMagic hl hmagic hn
  | badDimension ls dim hls hdim htag hbad hn =>
    rw [List.cons_append, lineBytes_cons, lineBytes_append, hlast] at hn ⊢
    obtain ⟨hmagic, hfields⟩ : _ ∧ Next s.pastMagic _ := next_append hn
    have hfuel : ls.length < s.pastMagic.slen.toNat - s.pastMagic.spos.toNat := by
      have hlen := length_le_lineBytes ls
      have hheld := hfields.2
      simp only [List.length_append, List.length_singleton] at hheld
      omega
    rw [readHeader_magic hmagic, State.moveCursor_pastMagic]
    exact readFields_badDimension hls hdim htag hbad hfields hfuel
  | endsFirst l hl hrest => rw [readHeader, bind_error (readLine_rest hl hrest)]
  | endsLater ls l hls hl hrest =>
    rw [lineBytes_cons] at hrest ⊢
    have hmagic : magicLine ++ [lineEnd] ≠ [] := List.cons_ne_nil _ _
    obtain ⟨hn, hend⟩ := rest_append (List.append_ne_nil_of_left_ne_nil hmagic _) hrest
    rw [List.append_assoc] at hrest ⊢
    obtain ⟨hfirst, hheld⟩ : _ ∧ Rest s.pastMagic _ := rest_append hmagic hrest
    rw [State.moveCursor_pastMagic] at hend
    rw [readHeader_magic hfirst, State.moveCursor_pastMagic]
    exact readFields_endsLater hls hl (next_append hn).2 hend hheld.2.le

/-- Settles O28: HDR_RD is the header reader, and DEC_IMAGE begins with it. -/
theorem hdrRdRaisesMalformedHeader : Obligations.HdrRdRaisesMalformedHeader := by
  unfold Obligations.HdrRdRaisesMalformedHeader
  intro s bs hr hbad
  have hread := readHeader_malformed hbad
  refine ⟨(command_ready hr).trans ?_, (command_ready hr).trans ?_⟩
  · rw [hread]; rfl
  · rw [bind_error hread]; rfl

end Sys2Proof.Machine
end
